-- ==== Sys2Proof/Word.lean ====
section
/-! DEFINITION. The word types of the block: every width the spec gives a field or a buffer element
(00_scope.md R8). -/

namespace Sys2Proof

/-- A byte of the bus, of `RING` and of `XFER`; also a field of a command word. -/
abbrev Byte := BitVec 8
/-- A 4-bit gain code field. -/
abbrev U4 := BitVec 4
/-- A sample, an `imm16`, a length or the info of a completion record. -/
abbrev U16 := BitVec 16
/-- A command word, a count, or an `i32` table entry (read with `toInt`). -/
abbrev U32 := BitVec 32
/-- An operand register, a magnitude, or an `i64` spectrum element (read with `toInt`). -/
abbrev U64 := BitVec 64

end Sys2Proof
end

