-- ==== Sys2Proof/Syntax.lean ====
section
/-! DEFINITION. The 48 operations of `FLKOPS-1`, one constructor for each row of the opcode table
(30_encoding.md R93), with the operand fields of its format (R91, R92). -/

namespace Sys2Proof

/-- An operation with its operands as the command word carries them. -/
inductive Instr where
  -- host utilities (47_host_ops.md)
  | nop
  | xli (d : Byte) (imm : U16)
  | xlih (d : Byte) (imm : U16)
  | xmov (d : Byte) (src : Byte)
  | brd (sel : Byte) (idx : U16)
  | bwr (sel : Byte) (idx : U16)
  -- register access (40_register_access.md)
  | getb (reg : Byte)
  | setb (reg : Byte) (val : Byte)
  | getw (reg : Byte)
  | setw (reg : Byte) (val : U16)
  | getbuf (reg : Byte) (len : Byte)
  | setbuf (reg : Byte) (len : Byte)
  | getf (reg : Byte) (mask : Byte)
  | setf (reg : Byte) (val : Byte) (mask : Byte)
  | ident
  -- DSP kernels (41_dsp_kernels.md)
  | isqrt
  | wingen
  | window
  | fft (n : U16)
  | mag (n : U16)
  -- FIFO drain and frame parser (42_fifo_parser.md)
  | drain
  | deint
  | pmeta
  | fifoclr
  -- flicker estimator (43_flicker.md)
  | favg
  | gnorm
  | thresh
  | peak
  | fdecide
  | b2mhz
  | mhz2b
  | flkest
  -- gain manager (44_agc.md)
  | l2c
  | c2l
  | agcen (on : Byte)
  | agcsat (on : Byte)
  | agcpred (on : Byte)
  | agcwin (size : Byte)
  | agcmaxg (ch : Byte) (code : Byte)
  -- ALS (45_als.md)
  | alssmp
  | alscalc
  | alseq
  -- dispatcher, configuration and results (46_dispatch.md)
  | dispatch
  | featen (feat : Byte) (trig : Byte)
  | featdis (feat : Byte)
  | setthr (thr : U16)
  | getals
  | getflk
  deriving DecidableEq, Repr

end Sys2Proof
end

