-- ==== Sys2Proof/Decode.lean ====
section
/-! DEFINITION. Decoding a command word (30_encoding.md R90 to R95), total, every illegal word rejected
by name; then the encoder, the opcode table's (match, mask) rows, and the byte form of a command. -/

namespace Sys2Proof

/-- Why a word or a byte string is no command (30_encoding.md R94, R95). -/
inductive DecodeError where
  /-- `op` is none of the 48 values of R93. -/
  | unassignedOpcode (op : Byte)
  /-- A field the operation's format does not use is nonzero. -/
  | unusedFieldNonzero (op : Byte)
  /-- Fewer than the four bytes of a command. -/
  | truncated
  deriving DecidableEq, Repr

/-- `cw[31:24]` (R90). -/
def fieldOp (w : U32) : Byte := w.extractLsb' 24 8
/-- `cw[23:16]` (R90). -/
def fieldA (w : U32) : Byte := w.extractLsb' 16 8
/-- `cw[15:8]` (R90). -/
def fieldB (w : U32) : Byte := w.extractLsb' 8 8
/-- `cw[7:0]` (R90). -/
def fieldC (w : U32) : Byte := w.extractLsb' 0 8
/-- The overlay `imm16 = cw[15:0]` (R90). -/
def fieldImm (w : U32) : U16 := w.extractLsb' 0 16

/-- Answer `i` if the fields its format leaves unused are 0 (R91, R94). -/
def whenUnusedZero (w : U32) (unusedZero : Bool) (i : Instr) : Except DecodeError Instr :=
  if unusedZero then .ok i else .error (.unusedFieldNonzero (fieldOp w))

/-- Format Z: no field. -/
def fmtZ (w : U32) (i : Instr) : Except DecodeError Instr :=
  whenUnusedZero w (fieldA w == 0 && fieldImm w == 0) i
/-- Format A: field a. -/
def fmtA (w : U32) (f : Byte → Instr) : Except DecodeError Instr :=
  whenUnusedZero w (fieldImm w == 0) (f (fieldA w))
/-- Format AB: fields a and b. -/
def fmtAB (w : U32) (f : Byte → Byte → Instr) : Except DecodeError Instr :=
  whenUnusedZero w (fieldC w == 0) (f (fieldA w) (fieldB w))
/-- Format ABC: fields a, b and c. -/
def fmtABC (w : U32) (f : Byte → Byte → Byte → Instr) : Except DecodeError Instr :=
  .ok (f (fieldA w) (fieldB w) (fieldC w))
/-- Format AI: field a and imm16. -/
def fmtAI (w : U32) (f : Byte → U16 → Instr) : Except DecodeError Instr :=
  .ok (f (fieldA w) (fieldImm w))
/-- Format I: imm16. -/
def fmtI (w : U32) (f : U16 → Instr) : Except DecodeError Instr :=
  whenUnusedZero w (fieldA w == 0) (f (fieldImm w))

/-- The operation a command word stands for (R93), or why it stands for none (R94). -/
def decode (w : U32) : Except DecodeError Instr :=
  match (fieldOp w).toNat with
  | 0x00 => fmtZ w .nop
  | 0x01 => fmtAI w .xli
  | 0x02 => fmtAI w .xlih
  | 0x03 => fmtAB w .xmov
  | 0x04 => fmtAI w .brd
  | 0x05 => fmtAI w .bwr
  | 0x10 => fmtA w .getb
  | 0x11 => fmtAB w .setb
  | 0x12 => fmtA w .getw
  | 0x13 => fmtAI w .setw
  | 0x14 => fmtAB w .getbuf
  | 0x15 => fmtAB w .setbuf
  | 0x16 => fmtAB w .getf
  | 0x17 => fmtABC w .setf
  | 0x18 => fmtZ w .ident
  | 0x20 => fmtZ w .isqrt
  | 0x21 => fmtZ w .wingen
  | 0x22 => fmtZ w .window
  | 0x23 => fmtI w .fft
  | 0x24 => fmtI w .mag
  | 0x30 => fmtZ w .drain
  | 0x31 => fmtZ w .deint
  | 0x32 => fmtZ w .pmeta
  | 0x33 => fmtZ w .fifoclr
  | 0x40 => fmtZ w .favg
  | 0x41 => fmtZ w .gnorm
  | 0x42 => fmtZ w .thresh
  | 0x43 => fmtZ w .peak
  | 0x44 => fmtZ w .fdecide
  | 0x45 => fmtZ w .b2mhz
  | 0x46 => fmtZ w .mhz2b
  | 0x47 => fmtZ w .flkest
  | 0x50 => fmtZ w .l2c
  | 0x51 => fmtZ w .c2l
  | 0x52 => fmtA w .agcen
  | 0x53 => fmtA w .agcsat
  | 0x54 => fmtA w .agcpred
  | 0x55 => fmtA w .agcwin
  | 0x56 => fmtAB w .agcmaxg
  | 0x60 => fmtZ w .alssmp
  | 0x61 => fmtZ w .alscalc
  | 0x62 => fmtZ w .alseq
  | 0x70 => fmtZ w .dispatch
  | 0x71 => fmtAB w .featen
  | 0x72 => fmtA w .featdis
  | 0x73 => fmtI w .setthr
  | 0x74 => fmtZ w .getals
  | 0x75 => fmtZ w .getflk
  | _ => .error (.unassignedOpcode (fieldOp w))

/-- A word from its four fields (R90). -/
def pack (op a b c : Byte) : U32 := op ++ a ++ b ++ c

/-- A word from its opcode, field a and imm16 (R90). -/
def packImm (op a : Byte) (imm : U16) : U32 := op ++ a ++ imm

/-- The command word of an operation (R91, R93). -/
def encode : Instr → U32
  | .nop => pack 0x00 0 0 0
  | .xli a i => packImm 0x01 a i
  | .xlih a i => packImm 0x02 a i
  | .xmov a b => pack 0x03 a b 0
  | .brd a i => packImm 0x04 a i
  | .bwr a i => packImm 0x05 a i
  | .getb a => pack 0x10 a 0 0
  | .setb a b => pack 0x11 a b 0
  | .getw a => pack 0x12 a 0 0
  | .setw a i => packImm 0x13 a i
  | .getbuf a b => pack 0x14 a b 0
  | .setbuf a b => pack 0x15 a b 0
  | .getf a b => pack 0x16 a b 0
  | .setf a b c => pack 0x17 a b c
  | .ident => pack 0x18 0 0 0
  | .isqrt => pack 0x20 0 0 0
  | .wingen => pack 0x21 0 0 0
  | .window => pack 0x22 0 0 0
  | .fft i => packImm 0x23 0 i
  | .mag i => packImm 0x24 0 i
  | .drain => pack 0x30 0 0 0
  | .deint => pack 0x31 0 0 0
  | .pmeta => pack 0x32 0 0 0
  | .fifoclr => pack 0x33 0 0 0
  | .favg => pack 0x40 0 0 0
  | .gnorm => pack 0x41 0 0 0
  | .thresh => pack 0x42 0 0 0
  | .peak => pack 0x43 0 0 0
  | .fdecide => pack 0x44 0 0 0
  | .b2mhz => pack 0x45 0 0 0
  | .mhz2b => pack 0x46 0 0 0
  | .flkest => pack 0x47 0 0 0
  | .l2c => pack 0x50 0 0 0
  | .c2l => pack 0x51 0 0 0
  | .agcen a => pack 0x52 a 0 0
  | .agcsat a => pack 0x53 a 0 0
  | .agcpred a => pack 0x54 a 0 0
  | .agcwin a => pack 0x55 a 0 0
  | .agcmaxg a b => pack 0x56 a b 0
  | .alssmp => pack 0x60 0 0 0
  | .alscalc => pack 0x61 0 0 0
  | .alseq => pack 0x62 0 0 0
  | .dispatch => pack 0x70 0 0 0
  | .featen a b => pack 0x71 a b 0
  | .featdis a => pack 0x72 a 0 0
  | .setthr i => packImm 0x73 0 i
  | .getals => pack 0x74 0 0 0
  | .getflk => pack 0x75 0 0 0

/-- The (match, mask) rows of the opcode table (spec/opcode_table.json, R91): a word is a row's
operation when `cw & mask = match`. Independent of `decode`. -/
def opcodeRows : List (U32 × U32) :=
  [(0x00000000, 0xFFFFFFFF), (0x01000000, 0xFF000000), (0x02000000, 0xFF000000), (0x03000000, 0xFF0000FF), (0x04000000, 0xFF000000), (0x05000000, 0xFF000000), (0x10000000, 0xFF00FFFF), (0x11000000, 0xFF0000FF)] ++
  [(0x12000000, 0xFF00FFFF), (0x13000000, 0xFF000000), (0x14000000, 0xFF0000FF), (0x15000000, 0xFF0000FF), (0x16000000, 0xFF0000FF), (0x17000000, 0xFF000000), (0x18000000, 0xFFFFFFFF), (0x20000000, 0xFFFFFFFF)] ++
  [(0x21000000, 0xFFFFFFFF), (0x22000000, 0xFFFFFFFF), (0x23000000, 0xFFFF0000), (0x24000000, 0xFFFF0000), (0x30000000, 0xFFFFFFFF), (0x31000000, 0xFFFFFFFF), (0x32000000, 0xFFFFFFFF), (0x33000000, 0xFFFFFFFF)] ++
  [(0x40000000, 0xFFFFFFFF), (0x41000000, 0xFFFFFFFF), (0x42000000, 0xFFFFFFFF), (0x43000000, 0xFFFFFFFF), (0x44000000, 0xFFFFFFFF), (0x45000000, 0xFFFFFFFF), (0x46000000, 0xFFFFFFFF), (0x47000000, 0xFFFFFFFF)] ++
  [(0x50000000, 0xFFFFFFFF), (0x51000000, 0xFFFFFFFF), (0x52000000, 0xFF00FFFF), (0x53000000, 0xFF00FFFF), (0x54000000, 0xFF00FFFF), (0x55000000, 0xFF00FFFF), (0x56000000, 0xFF0000FF), (0x60000000, 0xFFFFFFFF)] ++
  [(0x61000000, 0xFFFFFFFF), (0x62000000, 0xFFFFFFFF), (0x70000000, 0xFFFFFFFF), (0x71000000, 0xFF0000FF), (0x72000000, 0xFF00FFFF), (0x73000000, 0xFFFF0000), (0x74000000, 0xFFFFFFFF), (0x75000000, 0xFFFFFFFF)]

/-- The four bytes of a command word, least significant first (R95). -/
def wordBytes (w : U32) : List Byte := [fieldC w, fieldB w, fieldA w, fieldOp w]

/-- Read one command from bytes in the order they are stored (R95): the operation and the bytes after it. -/
def decodeBytes : List Byte → Except DecodeError (Instr × List Byte)
  | b0 :: b1 :: b2 :: b3 :: rest =>
    match decode (pack b3 b2 b1 b0) with
    | .ok i => .ok (i, rest)
    | .error e => .error e
  | _ => .error .truncated

/-- What the decoder reads from an instruction whose low `nbits` bits are `w`, the bits above being 0,
laid out as four little-endian bytes. -/
def decodeTableWord (nbits w : Nat) : Option Instr :=
  match decodeBytes (wordBytes (BitVec.ofNat 32 (w % 2 ^ nbits))) with
  | .ok (i, _) => some i
  | .error _ => none

end Sys2Proof
end

