-- ==== Sys2Proof/Machine/Arith.lean ====
section
/-! DEFINITION. The arithmetic primitives of 00_scope.md R9 and the array helpers the operations use. -/

namespace Sys2Proof.Machine

/-- `asr(v, k)`: arithmetic shift right, floor of `v / 2^k` (R9). -/
def asr (v : Int) (k : Nat) : Int := v >>> k

/-- `tdiv(a, b)`: division truncated toward zero (R9). -/
def tdiv (a b : Int) : Int := Int.tdiv a b

/-- `LE16(b0, b1)`: first byte least significant (R9, 20_memory.md R65). -/
def le16 (b0 b1 : Byte) : U16 := b1 ++ b0

/-- The low byte of a 16-bit value. -/
def lowByte (v : U16) : Byte := v.setWidth 8
/-- The high byte of a 16-bit value. -/
def highByte (v : U16) : Byte := (v >>> 8).setWidth 8

/-- `bitrev(i, m)`: the m-bit reversal of i (R9). -/
def bitrev (i : Nat) : Nat → Nat
  | 0 => 0
  | m + 1 => (i % 2) * 2 ^ m + bitrev (i / 2) m

/-- Whether n is a power of two (so that `log2(n)` of R9 is defined). -/
def isPow2 (n : Nat) : Bool := 2 ^ Nat.log2 n == n

/-- Whether an exact result fits an i64 destination (41_dsp_kernels.md R130). -/
def fitsI64 (v : Int) : Bool := decide (-9223372036854775808 ≤ v ∧ v ≤ 9223372036854775807)

/-- `sext_64` of a 32-bit two's-complement value (00_scope.md R8). -/
def sext64 (v : U32) : U64 := v.signExtend 64

/-- Store `vs` at index `i` onward; the array keeps its length, and what would fall beyond it is not
stored. -/
def overlay {α : Type} : List α → Nat → List α → List α
  | [], _, _ => []
  | l, _, [] => l
  | x :: xs, i + 1, vs => x :: overlay xs i vs
  | _ :: xs, 0, v :: vs => v :: overlay xs 0 vs

/-- The integer square root by binary search (41_dsp_kernels.md R131), `fuel` halvings of `lo .. hi`. -/
def isqrtSearch (v : Nat) : Nat → Nat → Nat → Nat
  | 0, lo, _ => lo
  | fuel + 1, lo, hi =>
    if lo < hi then
      let mid := (lo + hi + 1) / 2
      if mid * mid ≤ v then isqrtSearch v fuel mid hi else isqrtSearch v fuel lo (mid - 1)
    else lo

/-- `isqrt(v)` for v < 2^64 (R131): at most 32 halvings from `hi = min(v, 0xFFFFFFFF)`. -/
def isqrt (v : Nat) : Nat := isqrtSearch v 32 0 (min v 0xFFFFFFFF)

end Sys2Proof.Machine
end

