-- ==== Sys2Proof/Config.lean ====
section
/-! DEFINITION. The configuration record `CFG` (00_scope.md R6), grouped by what its fields describe,
and the free values: constants without a body, of which no proof can know anything. -/

namespace Sys2Proof

/-- One entry of `REGMAP`: the physical address of a device register and the value it holds after the
device's own reset (10_state.md R40). -/
structure RegEntry where
  addr : Byte
  resetValue : Byte
  deriving DecidableEq, Repr

/-- A (reg, val, mask) triple of `EN_SEQ`, `DIS_SEQ` and `THR_WRITES`: one setField (00_scope.md R6). -/
structure FieldWrite where
  reg : Byte
  val : Byte
  mask : Byte
  deriving DecidableEq, Repr

/-- One entry of `DEVICE_ID_LIST` (40_register_access.md R119). -/
structure IdEntry where
  id : Byte
  idMask : Byte
  rev : Byte
  revMask : Byte
  deriving DecidableEq, Repr

/-- The symbolic logical ids `R_*` of 10_state.md R41. -/
structure RegIds where
  enable : Byte
  intenab : Byte
  status : Byte
  control : Byte
  fifoThr : Byte
  fifoThrH : Byte
  fifoLvl : Byte
  fifoStat : Byte
  fifoData : Byte
  alsStat : Byte
  alsData : Byte
  agcA : Byte
  agcB : Byte
  agcMode : Byte
  agcWin : Byte
  agcMaxg : Byte
  id : Byte
  revid : Byte
  deriving DecidableEq, Repr

/-- The field masks and shifts of 10_state.md R41. -/
structure FieldMasks where
  stFlk : Byte
  stAls : Byte
  fifoOvf : Byte
  fifoClr : Byte
  scaleC : Byte
  scaleCShift : Nat
  scaleW : Byte
  scaleWShift : Nat
  agcA : Byte
  agcB : Byte
  agcSat : Byte
  agcPred : Byte
  agcWin : Byte
  agcMaxgC : Byte
  agcMaxgCShift : Nat
  agcMaxgW : Byte
  agcMaxgWShift : Nat
  deriving DecidableEq, Repr

/-- The bus and sequence parameters: `BUS_XFER_MAX`, `NLOW`, `DEVICE_ID_LIST`, `EN_SEQ[f][t]`,
`DIS_SEQ[f]`, and the three parameters no rule depends on (20_memory.md R62, 60_exceptions.md R276),
which are `none` where the reference configuration leaves them unspecified. -/
structure BusConfig where
  xferMax : Nat
  attempts : Option Nat
  retryDelay : Option Nat
  pollPeriod : Option Nat
  nLow : Nat
  deviceIds : List IdEntry
  enAlsInt : List FieldWrite
  enAlsPoll : List FieldWrite
  enFlkInt : List FieldWrite
  enFlkPoll : List FieldWrite
  disAls : List FieldWrite
  disFlk : List FieldWrite
  deriving DecidableEq, Repr

/-- `THR_WRITES` (00_scope.md R6), a function held as plain data by its name: the reference
configuration's, or the free function number `n` (log 6). -/
inductive ThrWrites where
  | lowHigh
  | free (n : Nat)
  deriving DecidableEq, Repr

/-- `LUX_AVG_FN` (00_scope.md R6), a function held as plain data by its name: the reference
configuration's `asr(avg + lux, 1)`, or the free function number `n` (log 6). -/
inductive LuxAverage where
  | halfSum
  | free (n : Nat)
  deriving DecidableEq, Repr

/-- `DISPATCH_CAP` (46_dispatch.md R216): a finite number of passes, or infinity, for which `fuel` is
how many further passes the model runs before it answers that DISPATCH does not end (log 7). -/
inductive DispatchCap where
  | passes (n : Nat)
  | unbounded (fuel : Nat)
  deriving DecidableEq, Repr

/-- The flicker estimator's parameters: FFT, frame, ring, gain normalisation, threshold, sample rate. -/
structure FlickerConfig where
  fftMax : Nat
  magPreshift : Nat
  nMod : Nat
  modClear : Nat
  modWide : Nat
  ringMax : Nat
  fifoThresholdInit : U16
  sampleCountInit : U16
  metaEndInit : Bool
  metaGainInit : Bool
  metaCsumInit : Bool
  gainInit : List U4
  gainRefCode : U4
  ratioFloor : U32
  targetClear : U64
  thrK : U32
  sampleRateMhz : U32
  deriving DecidableEq, Repr

/-- The ALS parameters: calibration constants, the scaled 1.6 and 2.0, the reported constants. -/
structure AlsConfig where
  coefA : U32
  coefB : U32
  irWNum : Nat
  irCNum : Nat
  irDen : Nat
  luxAverage : LuxAverage
  itime : U32
  gainInitC : U4
  gainInitW : U4
  deriving DecidableEq, Repr

/-- The configuration record `CFG` (00_scope.md R6). `REG_MAX` is the length of `regMap` (log 21);
the fields whose value the source fixes are constants of `Machine/Tables.lean` (log 10). -/
structure Config where
  regMap : List RegEntry
  reg : RegIds
  mask : FieldMasks
  bus : BusConfig
  thrWrites : ThrWrites
  dispatchCap : DispatchCap
  cosTab : List U32
  sinTab : List U32
  winTab : List U32
  flk : FlickerConfig
  als : AlsConfig
  deriving DecidableEq, Repr

/-- Free: the value of an uninterpreted `LUX_AVG_FN` number `n` at (avg, lux) (93_implementation_defined.md U25). -/
opaque Config.luxAverageFn : Nat → U64 → U64 → U64

/-- Free: the list an uninterpreted `THR_WRITES` number `n` gives for a threshold (92_eei_decisions.md, OPEN). -/
opaque Config.thrWritesFn : Nat → U16 → List FieldWrite

/-- Free: whether the `n`-th unscripted bus transaction succeeds (93_implementation_defined.md U12). -/
opaque Config.busSucceeds : Nat → Bool

/-- Free: byte `i` of the answer to the `n`-th unscripted bus read (93_implementation_defined.md U12). -/
opaque Config.busByte : Nat → Nat → Byte

/-- Free: whether an intermediate sum of the butterfly on elements `k` and `p` that overflows is
reported with index `p` (else `k`); 41_dsp_kernels.md R130 does not say which (log 8). -/
opaque Config.sumOverflowAtP : Nat → Nat → Bool

/-- Free: what a SIMDEV read returns for a byte past address 255, where 20_memory.md R78 has no
register (log 9). -/
opaque Config.simBeyond : Nat → Byte

end Sys2Proof
end

