-- ==== Sys2Proof/Machine/Tables.lean ====
section
/-! DEFINITION. The constants the source fixes (00_scope.md R6, "src" rows), the default contents of the
read-only tables (48_tables.md R245 to R247), and the reference configuration `CFG_REF` (00_scope.md R13,
10_state.md R41, 46_dispatch.md R217). -/

namespace Sys2Proof.Machine

/-- `TW_N`, entries of each twiddle table (00_scope.md R6). -/
def twN : Nat := 512
/-- `WIN_N`, the window length (00_scope.md R6). -/
def winN : Nat := 128
/-- `WIN_SHIFT` (00_scope.md R6, 41_dsp_kernels.md R134). -/
def winShift : Nat := 10
/-- `SAT_LEVEL` (00_scope.md R6, 41_dsp_kernels.md R134). -/
def satLevel : Nat := 0x3FFF
/-- `THR_DIV` (00_scope.md R6, 43_flicker.md R167). -/
def thrDiv : Nat := 1000000
/-- `BIN_LO` (00_scope.md R6, 43_flicker.md R168). -/
def binLo : Nat := 5
/-- `BIN_HI` (00_scope.md R6, 43_flicker.md R168). -/
def binHi : Nat := 50
/-- `CWRATIO_MAX` (00_scope.md R6, 45_als.md R203). -/
def cwRatioMax : Nat := 15
/-- `LUX_SHIFT` (00_scope.md R6, 45_als.md R203). -/
def luxShift : Nat := 10
/-- The number of entries of `GAIN_TAB`, the gain codes 0 to 13 (48_tables.md R247). -/
def gainCodes : Nat := 14
/-- The largest gain code (48_tables.md R247). -/
def maxGainCode : Nat := 13

/-- `GAIN_TAB[c] = 1000 * 2^c` (48_tables.md R247). -/
def gainTab (c : Nat) : Nat := 1000 * 2 ^ c

/-- `COS_TAB` default, entries 0 to 63 (48_tables.md). -/
def cosRows0 : List Int :=
  [65536, 65531, 65516, 65492, 65457, 65413, 65358, 65294] ++
  [65220, 65137, 65043, 64940, 64827, 64704, 64571, 64429] ++
  [64277, 64115, 63944, 63763, 63572, 63372, 63162, 62943] ++
  [62714, 62476, 62228, 61971, 61705, 61429, 61145, 60851] ++
  [60547, 60235, 59914, 59583, 59244, 58896, 58538, 58172] ++
  [57798, 57414, 57022, 56621, 56212, 55794, 55368, 54934] ++
  [54491, 54040, 53581, 53114, 52639, 52156, 51665, 51166] ++
  [50660, 50146, 49624, 49095, 48559, 48015, 47464, 46906]

/-- `COS_TAB` default, entries 64 to 127 (48_tables.md). -/
def cosRows1 : List Int :=
  [46341, 45769, 45190, 44604, 44011, 43412, 42806, 42194] ++
  [41576, 40951, 40320, 39683, 39040, 38391, 37736, 37076] ++
  [36410, 35738, 35062, 34380, 33692, 33000, 32303, 31600] ++
  [30893, 30182, 29466, 28745, 28020, 27291, 26558, 25821] ++
  [25080, 24335, 23586, 22834, 22078, 21320, 20557, 19792] ++
  [19024, 18253, 17479, 16703, 15924, 15143, 14359, 13573] ++
  [12785, 11996, 11204, 10411, 9616, 8820, 8022, 7224] ++
  [6424, 5623, 4821, 4019, 3216, 2412, 1608, 804]

/-- `COS_TAB` default, entries 128 to 191 (48_tables.md). -/
def cosRows2 : List Int :=
  [0, -804, -1608, -2412, -3216, -4019, -4821, -5623] ++
  [-6424, -7224, -8022, -8820, -9616, -10411, -11204, -11996] ++
  [-12785, -13573, -14359, -15143, -15924, -16703, -17479, -18253] ++
  [-19024, -19792, -20557, -21320, -22078, -22834, -23586, -24335] ++
  [-25080, -25821, -26558, -27291, -28020, -28745, -29466, -30182] ++
  [-30893, -31600, -32303, -33000, -33692, -34380, -35062, -35738] ++
  [-36410, -37076, -37736, -38391, -39040, -39683, -40320, -40951] ++
  [-41576, -42194, -42806, -43412, -44011, -44604, -45190, -45769]

/-- `COS_TAB` default, entries 192 to 255 (48_tables.md). -/
def cosRows3 : List Int :=
  [-46341, -46906, -47464, -48015, -48559, -49095, -49624, -50146] ++
  [-50660, -51166, -51665, -52156, -52639, -53114, -53581, -54040] ++
  [-54491, -54934, -55368, -55794, -56212, -56621, -57022, -57414] ++
  [-57798, -58172, -58538, -58896, -59244, -59583, -59914, -60235] ++
  [-60547, -60851, -61145, -61429, -61705, -61971, -62228, -62476] ++
  [-62714, -62943, -63162, -63372, -63572, -63763, -63944, -64115] ++
  [-64277, -64429, -64571, -64704, -64827, -64940, -65043, -65137] ++
  [-65220, -65294, -65358, -65413, -65457, -65492, -65516, -65531]

/-- `COS_TAB` default, entries 256 to 319 (48_tables.md). -/
def cosRows4 : List Int :=
  [-65536, -65531, -65516, -65492, -65457, -65413, -65358, -65294] ++
  [-65220, -65137, -65043, -64940, -64827, -64704, -64571, -64429] ++
  [-64277, -64115, -63944, -63763, -63572, -63372, -63162, -62943] ++
  [-62714, -62476, -62228, -61971, -61705, -61429, -61145, -60851] ++
  [-60547, -60235, -59914, -59583, -59244, -58896, -58538, -58172] ++
  [-57798, -57414, -57022, -56621, -56212, -55794, -55368, -54934] ++
  [-54491, -54040, -53581, -53114, -52639, -52156, -51665, -51166] ++
  [-50660, -50146, -49624, -49095, -48559, -48015, -47464, -46906]

/-- `COS_TAB` default, entries 320 to 383 (48_tables.md). -/
def cosRows5 : List Int :=
  [-46341, -45769, -45190, -44604, -44011, -43412, -42806, -42194] ++
  [-41576, -40951, -40320, -39683, -39040, -38391, -37736, -37076] ++
  [-36410, -35738, -35062, -34380, -33692, -33000, -32303, -31600] ++
  [-30893, -30182, -29466, -28745, -28020, -27291, -26558, -25821] ++
  [-25080, -24335, -23586, -22834, -22078, -21320, -20557, -19792] ++
  [-19024, -18253, -17479, -16703, -15924, -15143, -14359, -13573] ++
  [-12785, -11996, -11204, -10411, -9616, -8820, -8022, -7224] ++
  [-6424, -5623, -4821, -4019, -3216, -2412, -1608, -804]

/-- `COS_TAB` default, entries 384 to 447 (48_tables.md). -/
def cosRows6 : List Int :=
  [0, 804, 1608, 2412, 3216, 4019, 4821, 5623] ++
  [6424, 7224, 8022, 8820, 9616, 10411, 11204, 11996] ++
  [12785, 13573, 14359, 15143, 15924, 16703, 17479, 18253] ++
  [19024, 19792, 20557, 21320, 22078, 22834, 23586, 24335] ++
  [25080, 25821, 26558, 27291, 28020, 28745, 29466, 30182] ++
  [30893, 31600, 32303, 33000, 33692, 34380, 35062, 35738] ++
  [36410, 37076, 37736, 38391, 39040, 39683, 40320, 40951] ++
  [41576, 42194, 42806, 43412, 44011, 44604, 45190, 45769]

/-- `COS_TAB` default, entries 448 to 511 (48_tables.md). -/
def cosRows7 : List Int :=
  [46341, 46906, 47464, 48015, 48559, 49095, 49624, 50146] ++
  [50660, 51166, 51665, 52156, 52639, 53114, 53581, 54040] ++
  [54491, 54934, 55368, 55794, 56212, 56621, 57022, 57414] ++
  [57798, 58172, 58538, 58896, 59244, 59583, 59914, 60235] ++
  [60547, 60851, 61145, 61429, 61705, 61971, 62228, 62476] ++
  [62714, 62943, 63162, 63372, 63572, 63763, 63944, 64115] ++
  [64277, 64429, 64571, 64704, 64827, 64940, 65043, 65137] ++
  [65220, 65294, 65358, 65413, 65457, 65492, 65516, 65531]

/-- `SIN_TAB` default, entries 0 to 63 (48_tables.md). -/
def sinRows0 : List Int :=
  [0, 804, 1608, 2412, 3216, 4019, 4821, 5623] ++
  [6424, 7224, 8022, 8820, 9616, 10411, 11204, 11996] ++
  [12785, 13573, 14359, 15143, 15924, 16703, 17479, 18253] ++
  [19024, 19792, 20557, 21320, 22078, 22834, 23586, 24335] ++
  [25080, 25821, 26558, 27291, 28020, 28745, 29466, 30182] ++
  [30893, 31600, 32303, 33000, 33692, 34380, 35062, 35738] ++
  [36410, 37076, 37736, 38391, 39040, 39683, 40320, 40951] ++
  [41576, 42194, 42806, 43412, 44011, 44604, 45190, 45769]

/-- `SIN_TAB` default, entries 64 to 127 (48_tables.md). -/
def sinRows1 : List Int :=
  [46341, 46906, 47464, 48015, 48559, 49095, 49624, 50146] ++
  [50660, 51166, 51665, 52156, 52639, 53114, 53581, 54040] ++
  [54491, 54934, 55368, 55794, 56212, 56621, 57022, 57414] ++
  [57798, 58172, 58538, 58896, 59244, 59583, 59914, 60235] ++
  [60547, 60851, 61145, 61429, 61705, 61971, 62228, 62476] ++
  [62714, 62943, 63162, 63372, 63572, 63763, 63944, 64115] ++
  [64277, 64429, 64571, 64704, 64827, 64940, 65043, 65137] ++
  [65220, 65294, 65358, 65413, 65457, 65492, 65516, 65531]

/-- `SIN_TAB` default, entries 128 to 191 (48_tables.md). -/
def sinRows2 : List Int :=
  [65536, 65531, 65516, 65492, 65457, 65413, 65358, 65294] ++
  [65220, 65137, 65043, 64940, 64827, 64704, 64571, 64429] ++
  [64277, 64115, 63944, 63763, 63572, 63372, 63162, 62943] ++
  [62714, 62476, 62228, 61971, 61705, 61429, 61145, 60851] ++
  [60547, 60235, 59914, 59583, 59244, 58896, 58538, 58172] ++
  [57798, 57414, 57022, 56621, 56212, 55794, 55368, 54934] ++
  [54491, 54040, 53581, 53114, 52639, 52156, 51665, 51166] ++
  [50660, 50146, 49624, 49095, 48559, 48015, 47464, 46906]

/-- `SIN_TAB` default, entries 192 to 255 (48_tables.md). -/
def sinRows3 : List Int :=
  [46341, 45769, 45190, 44604, 44011, 43412, 42806, 42194] ++
  [41576, 40951, 40320, 39683, 39040, 38391, 37736, 37076] ++
  [36410, 35738, 35062, 34380, 33692, 33000, 32303, 31600] ++
  [30893, 30182, 29466, 28745, 28020, 27291, 26558, 25821] ++
  [25080, 24335, 23586, 22834, 22078, 21320, 20557, 19792] ++
  [19024, 18253, 17479, 16703, 15924, 15143, 14359, 13573] ++
  [12785, 11996, 11204, 10411, 9616, 8820, 8022, 7224] ++
  [6424, 5623, 4821, 4019, 3216, 2412, 1608, 804]

/-- `SIN_TAB` default, entries 256 to 319 (48_tables.md). -/
def sinRows4 : List Int :=
  [0, -804, -1608, -2412, -3216, -4019, -4821, -5623] ++
  [-6424, -7224, -8022, -8820, -9616, -10411, -11204, -11996] ++
  [-12785, -13573, -14359, -15143, -15924, -16703, -17479, -18253] ++
  [-19024, -19792, -20557, -21320, -22078, -22834, -23586, -24335] ++
  [-25080, -25821, -26558, -27291, -28020, -28745, -29466, -30182] ++
  [-30893, -31600, -32303, -33000, -33692, -34380, -35062, -35738] ++
  [-36410, -37076, -37736, -38391, -39040, -39683, -40320, -40951] ++
  [-41576, -42194, -42806, -43412, -44011, -44604, -45190, -45769]

/-- `SIN_TAB` default, entries 320 to 383 (48_tables.md). -/
def sinRows5 : List Int :=
  [-46341, -46906, -47464, -48015, -48559, -49095, -49624, -50146] ++
  [-50660, -51166, -51665, -52156, -52639, -53114, -53581, -54040] ++
  [-54491, -54934, -55368, -55794, -56212, -56621, -57022, -57414] ++
  [-57798, -58172, -58538, -58896, -59244, -59583, -59914, -60235] ++
  [-60547, -60851, -61145, -61429, -61705, -61971, -62228, -62476] ++
  [-62714, -62943, -63162, -63372, -63572, -63763, -63944, -64115] ++
  [-64277, -64429, -64571, -64704, -64827, -64940, -65043, -65137] ++
  [-65220, -65294, -65358, -65413, -65457, -65492, -65516, -65531]

/-- `SIN_TAB` default, entries 384 to 447 (48_tables.md). -/
def sinRows6 : List Int :=
  [-65536, -65531, -65516, -65492, -65457, -65413, -65358, -65294] ++
  [-65220, -65137, -65043, -64940, -64827, -64704, -64571, -64429] ++
  [-64277, -64115, -63944, -63763, -63572, -63372, -63162, -62943] ++
  [-62714, -62476, -62228, -61971, -61705, -61429, -61145, -60851] ++
  [-60547, -60235, -59914, -59583, -59244, -58896, -58538, -58172] ++
  [-57798, -57414, -57022, -56621, -56212, -55794, -55368, -54934] ++
  [-54491, -54040, -53581, -53114, -52639, -52156, -51665, -51166] ++
  [-50660, -50146, -49624, -49095, -48559, -48015, -47464, -46906]

/-- `SIN_TAB` default, entries 448 to 511 (48_tables.md). -/
def sinRows7 : List Int :=
  [-46341, -45769, -45190, -44604, -44011, -43412, -42806, -42194] ++
  [-41576, -40951, -40320, -39683, -39040, -38391, -37736, -37076] ++
  [-36410, -35738, -35062, -34380, -33692, -33000, -32303, -31600] ++
  [-30893, -30182, -29466, -28745, -28020, -27291, -26558, -25821] ++
  [-25080, -24335, -23586, -22834, -22078, -21320, -20557, -19792] ++
  [-19024, -18253, -17479, -16703, -15924, -15143, -14359, -13573] ++
  [-12785, -11996, -11204, -10411, -9616, -8820, -8022, -7224] ++
  [-6424, -5623, -4821, -4019, -3216, -2412, -1608, -804]

/-- `WIN_TAB` default, entries 0 to 63 (48_tables.md). -/
def winRows0 : List Nat :=
  [5243, 5280, 5390, 5574, 5831, 6161, 6561, 7033] ++
  [7573, 8182, 8858, 9598, 10401, 11266, 12190, 13170] ++
  [14205, 15291, 16427, 17609, 18835, 20101, 21405, 22743] ++
  [24112, 25508, 26929, 28370, 29828, 31301, 32783, 34271] ++
  [35762, 37253, 38738, 40216, 41682, 43132, 44563, 45972] ++
  [47355, 48709, 50030, 51315, 52562, 53766, 54926, 56037] ++
  [57098, 58106, 59058, 59953, 60787, 61559, 62267, 62909] ++
  [63484, 63991, 64427, 64792, 65085, 65306, 65453, 65527]

/-- `WIN_TAB` default, entries 64 to 127 (48_tables.md). -/
def winRows1 : List Nat :=
  [65527, 65453, 65306, 65085, 64792, 64427, 63991, 63484] ++
  [62909, 62267, 61559, 60787, 59953, 59058, 58106, 57098] ++
  [56037, 54926, 53766, 52562, 51315, 50030, 48709, 47355] ++
  [45972, 44563, 43132, 41682, 40216, 38738, 37253, 35762] ++
  [34271, 32783, 31301, 29828, 28370, 26929, 25508, 24112] ++
  [22743, 21405, 20101, 18835, 17609, 16427, 15291, 14205] ++
  [13170, 12190, 11266, 10401, 9598, 8858, 8182, 7573] ++
  [7033, 6561, 6161, 5831, 5574, 5390, 5280, 5243]

/-- `COS_TAB` default: 512 signed Q16 entries (48_tables.md R245). -/
def cosTabDefault : List U32 :=
  (cosRows0 ++ cosRows1 ++ cosRows2 ++ cosRows3 ++ cosRows4 ++ cosRows5 ++ cosRows6 ++ cosRows7).map (BitVec.ofInt 32)

/-- `SIN_TAB` default: 512 signed Q16 entries (48_tables.md R245). -/
def sinTabDefault : List U32 :=
  (sinRows0 ++ sinRows1 ++ sinRows2 ++ sinRows3 ++ sinRows4 ++ sinRows5 ++ sinRows6 ++ sinRows7).map (BitVec.ofInt 32)

/-- `WIN_TAB` default: 128 unsigned Q16 entries (48_tables.md R246). -/
def winTabDefault : List U32 :=
  (winRows0 ++ winRows1).map (BitVec.ofNat 32)

/-- The register map of `CFG_REF`: ids 0 to 23 at 0x80 to 0x97 (10_state.md R41). -/
def refRegMap : List RegEntry :=
  [⟨0x80, 0x00⟩, ⟨0x81, 0x00⟩, ⟨0x82, 0x00⟩, ⟨0x83, 0x00⟩, ⟨0x84, 0x00⟩, ⟨0x85, 0x00⟩, ⟨0x86, 0x00⟩, ⟨0x87, 0x00⟩] ++
  [⟨0x88, 0x00⟩, ⟨0x89, 0x00⟩, ⟨0x8A, 0x00⟩, ⟨0x8B, 0x00⟩, ⟨0x8C, 0x00⟩, ⟨0x8D, 0x00⟩, ⟨0x8E, 0x00⟩, ⟨0x8F, 0x00⟩] ++
  [⟨0x90, 0x00⟩, ⟨0x91, 0x00⟩, ⟨0x92, 0x00⟩, ⟨0x93, 0x5A⟩, ⟨0x94, 0x01⟩, ⟨0x95, 0x00⟩, ⟨0x96, 0x00⟩, ⟨0x97, 0x00⟩]

/-- The symbolic ids of `CFG_REF` (10_state.md R41). -/
def refRegIds : RegIds where
  enable := 0
  intenab := 1
  status := 2
  control := 3
  fifoThr := 4
  fifoThrH := 5
  fifoLvl := 6
  fifoStat := 7
  fifoData := 8
  alsStat := 9
  alsData := 10
  agcA := 14
  agcB := 15
  agcMode := 16
  agcWin := 17
  agcMaxg := 18
  id := 19
  revid := 20

/-- The field masks of `CFG_REF` (10_state.md R41). -/
def refMasks : FieldMasks where
  stFlk := 0x04
  stAls := 0x08
  fifoOvf := 0x80
  fifoClr := 0x02
  scaleC := 0x0F
  scaleCShift := 0
  scaleW := 0xF0
  scaleWShift := 4
  agcA := 0x01
  agcB := 0x01
  agcSat := 0x01
  agcPred := 0x02
  agcWin := 0xFF
  agcMaxgC := 0x0F
  agcMaxgCShift := 0
  agcMaxgW := 0xF0
  agcMaxgWShift := 4

/-- The bus and sequence parameters of `CFG_REF` (00_scope.md R6, 46_dispatch.md R217). -/
def refBus : BusConfig where
  xferMax := 32
  attempts := some 3
  retryDelay := none
  pollPeriod := none
  nLow := 2
  deviceIds := [⟨0x58, 0xFC, 0x01, 0x07⟩, ⟨0x58, 0xFC, 0x00, 0x07⟩]
  enAlsInt := [⟨0, 0x03, 0x03⟩, ⟨1, 0x08, 0x08⟩]
  enAlsPoll := [⟨0, 0x03, 0x03⟩]
  enFlkInt := [⟨0, 0x41, 0x41⟩, ⟨1, 0x04, 0x04⟩]
  enFlkPoll := [⟨0, 0x41, 0x41⟩]
  disAls := [⟨0, 0x00, 0x02⟩, ⟨1, 0x00, 0x08⟩]
  disFlk := [⟨0, 0x00, 0x40⟩, ⟨1, 0x00, 0x04⟩]

/-- The estimator's parameters of `CFG_REF` (00_scope.md R6). -/
def refFlk : FlickerConfig where
  fftMax := 128
  magPreshift := 0
  nMod := 2
  modClear := 0
  modWide := 1
  ringMax := 1024
  fifoThresholdInit := 512
  sampleCountInit := 128
  metaEndInit := false
  metaGainInit := false
  metaCsumInit := false
  gainInit := [0, 0]
  gainRefCode := 0
  ratioFloor := 1000
  targetClear := 1000000
  thrK := 10
  sampleRateMhz := 1280000

/-- The ALS parameters of `CFG_REF` (00_scope.md R6). -/
def refAls : AlsConfig where
  coefA := BitVec.ofInt 32 (-20)
  coefB := 1200
  irWNum := 16
  irCNum := 20
  irDen := 10
  luxAverage := .halfSum
  itime := 100
  gainInitC := 0
  gainInitW := 0

/-- The reference configuration `CFG_REF` (00_scope.md R13; log 1). -/
def cfgRef : Config where
  regMap := refRegMap
  reg := refRegIds
  mask := refMasks
  bus := refBus
  thrWrites := .lowHigh
  dispatchCap := .passes 4
  cosTab := cosTabDefault
  sinTab := sinTabDefault
  winTab := winTabDefault
  flk := refFlk
  als := refAls

end Sys2Proof.Machine
end

