-- ==== Sys2Proof/Machine/ConfigCheck.lean ====
section
/-! DEFINITION. What a configuration gives the operations (addresses, register lists, the functions held
by name), and when it is well-formed (00_scope.md R7). -/

namespace Sys2Proof.Machine

/-- `REG_MAX`: the number of logical register ids (00_scope.md R6; log 21). -/
def regMax (c : Config) : Nat := c.regMap.length

/-- `REGMAP[id]` (20_memory.md R64). -/
def regEntry (c : Config) (id : Nat) : RegEntry := c.regMap.getD id ⟨0, 0⟩

/-- `A(id) = REGMAP[id].addr` (20_memory.md R64). -/
def regAddr (c : Config) (id : Nat) : Byte := (regEntry c id).addr

/-- `REGMAP[id].resetValue` (10_state.md R40). -/
def regReset (c : Config) (id : Nat) : Byte := (regEntry c id).resetValue

/-- Whether a setField triple is one 00_scope.md R7 (j) allows: `reg < REG_MAX` and `val & ~mask = 0`. -/
def fieldWriteOk (c : Config) (w : FieldWrite) : Bool :=
  decide (w.reg.toNat < regMax c) && (w.val &&& ~~~w.mask) == 0

/-- `THR_WRITES(thr)` (00_scope.md R6). An uninterpreted one is cut down to the triples R7 (j) allows,
which a well-formed one consists of (log 6). -/
def thrWriteList (c : Config) (thr : U16) : List FieldWrite :=
  match c.thrWrites with
  | .lowHigh =>
    [⟨c.reg.fifoThr, thr.setWidth 8, 0xFF⟩, ⟨c.reg.fifoThrH, (thr >>> 8).setWidth 8, 0xFF⟩]
  | .free n => (Config.thrWritesFn n thr).filter (fieldWriteOk c)

/-- `LUX_AVG_FN(avg, lux)` on i64 values (00_scope.md R6; log 6). -/
def luxAverageOf (c : Config) (avg lux : U64) : U64 :=
  match c.als.luxAverage with
  | .halfSum => BitVec.ofInt 64 ((avg.toInt + lux.toInt) >>> 1)
  | .free n => Config.luxAverageFn n avg lux

/-- The ids `id .. id + n - 1` exist and stand at consecutive addresses (00_scope.md R7 (b)). -/
def regsContiguous (c : Config) (id : Nat) (n : Nat) : Bool :=
  decide (id + n ≤ regMax c) &&
    (List.range n).all fun i => (regAddr c (id + i)).toNat == (regAddr c id).toNat + i

/-- The symbolic ids of 10_state.md R41. -/
def symbolicIds (r : RegIds) : List Byte :=
  [r.enable, r.intenab, r.status, r.control, r.fifoThr, r.fifoThrH, r.fifoLvl, r.fifoStat, r.fifoData] ++
  [r.alsStat, r.alsData, r.agcA, r.agcB, r.agcMode, r.agcWin, r.agcMaxg, r.id, r.revid]

/-- 00_scope.md R7 (a), (b) and 10_state.md R41: the register map, the symbolic ids, the ALS block, and
an overflow flag outside the low `NLOW` bits. -/
def registersOk (c : Config) : Bool :=
  decide (1 ≤ regMax c ∧ regMax c ≤ 256) &&
  (symbolicIds c.reg).all (fun id => decide (id.toNat < regMax c)) &&
  regsContiguous c c.reg.alsData.toNat 4 &&
  decide (c.bus.nLow ≤ 7) &&
  c.mask.fifoOvf.toNat % 2 ^ c.bus.nLow == 0

/-- 00_scope.md R7 (c) to (f), (h), (i), (k) and the ranges of R6: the estimator's parameters. -/
def estimatorOk (c : Config) : Bool :=
  isPow2Size c.flk.fftMax && decide (binHi < c.flk.fftMax) && decide (c.flk.magPreshift ≤ 31) &&
  decide (2 ≤ c.flk.nMod ∧ c.flk.nMod ≤ 4) && decide (c.flk.modClear < c.flk.nMod) &&
  decide (c.flk.modWide < c.flk.nMod) && c.flk.gainInit.length == c.flk.nMod &&
  c.flk.gainInit.all (fun g => decide (g.toNat ≤ maxGainCode)) &&
  decide (c.flk.gainRefCode.toNat ≤ maxGainCode) &&
  decide (1 ≤ c.flk.fifoThresholdInit.toNat ∧ c.flk.fifoThresholdInit.toNat ≤ c.flk.ringMax) &&
  decide (1 ≤ c.flk.ratioFloor.toNat) && decide (1 ≤ c.flk.sampleRateMhz.toNat) &&
  c.cosTab.length == twN && c.sinTab.length == twN && c.winTab.length == winN
where
  /-- A power of two from 128 to 512 (00_scope.md R7 (c)). -/
  isPow2Size (n : Nat) : Bool := n == 128 || n == 256 || n == 512

/-- 00_scope.md R7 (g) and the ranges of R6: the ALS parameters. -/
def alsOk (c : Config) : Bool :=
  decide (1 ≤ c.als.irDen) && 5 * c.als.irWNum == 8 * c.als.irDen && c.als.irCNum == 2 * c.als.irDen &&
  decide (c.als.gainInitC.toNat ≤ maxGainCode) && decide (c.als.gainInitW.toNat ≤ maxGainCode)

/-- 00_scope.md R7 (j) and the ranges of R6: the transfer size, the sequences, the dispatch cap. -/
def sequencesOk (c : Config) : Bool :=
  decide (1 ≤ c.bus.xferMax) && capOk c.dispatchCap &&
  (c.bus.enAlsInt ++ c.bus.enAlsPoll ++ c.bus.enFlkInt ++ c.bus.enFlkPoll ++ c.bus.disAls ++ c.bus.disFlk).all
    (fieldWriteOk c)
where
  /-- At least one pass, or infinity (92_eei_decisions.md, OPEN). -/
  capOk : DispatchCap → Bool
    | .passes n => decide (1 ≤ n)
    | .unbounded _ => true

/-- A well-formed configuration (00_scope.md R7). -/
def configOk (c : Config) : Bool := registersOk c && estimatorOk c && alsOk c && sequencesOk c

end Sys2Proof.Machine
end

