-- ==== Sys2Proof/Machine/Memory.lean ====
section
/-! DEFINITION. A byte-addressed memory in one canonical form: the physical device register space of
the reference device (20_memory.md R60 (1), R78). -/

namespace Sys2Proof.Machine

/-- Cells at strictly rising addresses, none equal to what an unlisted address reads as. -/
abbrev Memory := List Host.Cell

/-- What an unlisted address reads as: "every other register 0" (95_test_vectors.md, Conventions). -/
def memDefault : Byte := 0

/-- The number of byte locations of the physical device register space (20_memory.md R60). -/
def memSize : Nat := 256

/-- The byte at address `a`. -/
def memRead : Memory → Nat → Byte
  | [], _ => memDefault
  | (k, v) :: rest, a => if k = a then v else memRead rest a

/-- `rest` with the cell `(a, v)` in front, unless `v` is what an unlisted address reads as. -/
def memCons (a : Nat) (v : Byte) (rest : Memory) : Memory :=
  if v = memDefault then rest else (a, v) :: rest

/-- Store the byte `v` at address `a`, keeping the canonical form. -/
def memWrite : Memory → Nat → Byte → Memory
  | [], a, v => memCons a v []
  | (k, w) :: rest, a, v =>
    if a < k then memCons a v ((k, w) :: rest)
    else if a = k then memCons a v rest
    else (k, w) :: memWrite rest a v

/-- The canonical form from address `lo` on. -/
def memWfFrom (lo : Nat) : Memory → Bool
  | [] => true
  | (k, v) :: rest => decide (lo ≤ k) && decide (k < memSize) && v != memDefault && memWfFrom (k + 1) rest

/-- The canonical form: addresses strictly rising and below 256, no cell equal to the default. -/
def memWf (m : Memory) : Bool := memWfFrom 0 m

end Sys2Proof.Machine
end

