-- ==== Sys2Proof/Machine/Contexts.lean ====
section
/-! DEFINITION. The groups of the block's state (10_state.md R22 to R38) with the value each takes at hard
reset or re-initialisation (10_state.md R46, 70_reset_and_hazards.md R286 to R288), and the bus with the
device behind it (10_state.md R42, 20_memory.md R72, R78). -/

namespace Sys2Proof.Machine

/-- The dispatcher's two states (46_dispatch.md R215). -/
inductive Phase where
  | idle
  | dispatch
  deriving DecidableEq, Repr

/-- The trigger mode chosen at enable time (10_state.md R23). -/
inductive Trigger where
  | int
  | poll
  deriving DecidableEq, Repr

/-- The ALS context's visible state (45_als.md R200). -/
inductive AlsMode where
  | init
  | rgb
  deriving DecidableEq, Repr

/-- The device context `DC` (10_state.md R22 to R24, R26 to R28). -/
structure DeviceContext where
  phase : Phase
  mode : BitVec 2
  trig : Trigger
  variant : Option Nat
  shEnable : Byte
  shIntenab : Byte
  shStatus : Byte
  update : BitVec 2
  errcnt : U32
  lastErr : Byte
  faults : U16
  deriving DecidableEq, Repr

/-- `DC` after hard reset (10_state.md R46). -/
def deviceContextReset (c : Config) : DeviceContext where
  phase := .idle
  mode := 0
  trig := .int
  variant := none
  shEnable := regReset c c.reg.enable.toNat
  shIntenab := regReset c c.reg.intenab.toNat
  shStatus := regReset c c.reg.status.toNat
  update := 0
  errcnt := 0
  lastErr := 0
  faults := 0

/-- The AGC state `AGC` (10_state.md R25); `maxGain[0]` is clear, `maxGain[1]` wideband. -/
structure Agc where
  enabled : Bool
  satAdaptive : Bool
  predictive : Bool
  winSize : Byte
  maxGainC : U4
  maxGainW : U4
  deriving DecidableEq, Repr

/-- `AGC` after hard reset: all 0 (10_state.md R25). -/
def agcReset : Agc where
  enabled := false
  satAdaptive := false
  predictive := false
  winSize := 0
  maxGainC := 0
  maxGainW := 0

/-- The flicker context `FLK` (10_state.md R29 to R31). -/
structure Flicker where
  sampleCount : U16
  fifoThreshold : U16
  freq : U32
  dataReady : Bool
  gain : List U4
  metaEnd : Bool
  metaGain : Bool
  metaCsum : Bool
  avgC : U32
  avgW : U32
  normC : U64
  normW : U64
  thresh : U64
  peakBin : U16
  peakMag : U64
  checksum : U16
  endMarker : U16
  satf : Bool
  deriving DecidableEq, Repr

/-- `FLK` after (re-)initialisation, with the FIFO threshold it keeps (70_reset_and_hazards.md R287). -/
def flickerInit (c : Config) (fifoThreshold : U16) : Flicker where
  sampleCount := c.flk.sampleCountInit
  fifoThreshold := fifoThreshold
  freq := 0
  dataReady := false
  gain := c.flk.gainInit
  metaEnd := c.flk.metaEndInit
  metaGain := c.flk.metaGainInit
  metaCsum := c.flk.metaCsumInit
  avgC := 0
  avgW := 0
  normC := 0
  normW := 0
  thresh := 0
  peakBin := 0
  peakMag := 0
  checksum := 0
  endMarker := 0
  satf := false

/-- The ALS context `ALS` (10_state.md R32). -/
structure Als where
  state : AlsMode
  rawClear : U32
  rawWide : U32
  clearCorr : U32
  wideCorr : U32
  ir : U32
  cwRatio : Byte
  lux : U64
  luxAvg : U64
  gainC : U4
  gainW : U4
  coefA : U32
  coefB : U32
  itime : U32
  deriving DecidableEq, Repr

/-- `ALS` after (re-)initialisation (70_reset_and_hazards.md R288). -/
def alsInit (c : Config) : Als where
  state := .init
  rawClear := 0
  rawWide := 0
  clearCorr := 0
  wideCorr := 0
  ir := 0
  cwRatio := 0
  lux := 0
  luxAvg := 0
  gainC := c.als.gainInitC
  gainW := c.als.gainInitW
  coefA := c.als.coefA
  coefB := c.als.coefB
  itime := c.als.itime

/-- The buffers (10_state.md R33 to R38); `RE` and `IM` hold i64 elements read with `toInt`. -/
structure Buffers where
  ring : List Byte
  ringLen : U16
  clear : List U16
  wide : List U16
  re : List U64
  im : List U64
  mag : List U64
  win : List U32
  xfer : List Byte
  deriving DecidableEq, Repr

/-- The buffers after hard reset: every element 0, `RING.len = 0` (10_state.md R46). -/
def buffersReset (c : Config) : Buffers where
  ring := List.replicate c.flk.ringMax 0
  ringLen := 0
  clear := List.replicate c.flk.fftMax 0
  wide := List.replicate c.flk.fftMax 0
  re := List.replicate c.flk.fftMax 0
  im := List.replicate c.flk.fftMax 0
  mag := List.replicate c.flk.fftMax 0
  win := List.replicate winN 0
  xfer := List.replicate c.bus.xferMax 0

/-- One scripted answer of the device: the transaction fails, or it succeeds, a read with these bytes. -/
inductive BusAnswer where
  | fail
  | ok (bytes : List Byte)
  deriving DecidableEq, Repr

/-- The reference device SIMDEV (20_memory.md R78). `outcomes` says of the next transactions whether
they succeed; after it every transaction does. -/
structure SimDev where
  reg : Memory
  fifo : List Byte
  ovf : Bool
  outcomes : List Bool
  deriving DecidableEq, Repr

/-- SIMDEV in its reset state (95_test_vectors.md, Conventions). -/
def simDevReset : SimDev where
  reg := [(0x93, 0x5A), (0x94, 0x01)]
  fifo := []
  ovf := false
  outcomes := []

/-- The agent DEV: an oracle that answers from a script and then freely (`draws` counts the free
answers; 20_memory.md R72, log 2), or the reference device. -/
inductive Device where
  | oracle (script : List BusAnswer) (draws : Nat)
  | sim (d : SimDev)
  deriving DecidableEq, Repr

/-- One bus transaction (20_memory.md R61, R62): its start address, its size or bytes, and its outcome. -/
inductive BusTx where
  | read (addr : Byte) (n : Nat) (answer : Option (List Byte))
  | write (addr : Byte) (bytes : List Byte) (succeeded : Bool)
  deriving DecidableEq, Repr

/-- The bus as the block sees it: the device behind it and the transactions made, newest first. -/
structure Bus where
  dev : Device
  log : List BusTx
  deriving DecidableEq, Repr

/-- The completion record handed to HOST (30_encoding.md R100). -/
structure Completion where
  status : Byte
  info : U16
  deriving DecidableEq, Repr

/-- What the device, or the test script that drives SIMDEV, does between commands (10_state.md R42,
20_memory.md R72, R78). -/
inductive DeviceAct where
  | poke (addr : Byte) (v : Byte)
  | push (bytes : List Byte)
  | overflow (ovf : Bool)
  | outcomes (oks : List Bool)
  | answers (script : List BusAnswer)
  deriving DecidableEq, Repr

/-- What HOST does next (00_scope.md R5): issue a command (with the commands that arrive while its
operation runs, 60_exceptions.md R266), write `x[r]` (10_state.md R45), attach (70_reset_and_hazards.md
R286), detach (R289); or what the device does between commands. -/
inductive HostAct where
  | command (cw : U32) (during : List U32)
  | writeX (r : Fin 8) (v : U64)
  | attach (c : Config)
  | detach
  | device (act : DeviceAct)
  deriving DecidableEq, Repr

end Sys2Proof.Machine
end

