-- ==== Sys2Proof/Machine/State.lean ====
section
/-! DEFINITION. The state of the machine (10_state.md R20), hard reset (R46), and the reasons the machine
can stop. -/

namespace Sys2Proof.Machine

/-- Everything the spec gives the block (10_state.md R20 to R38) and the device behind the bus (R42);
`cfg`, `attached`, `records` and `inbox` are the model's own (log 1, 3, 5, 12). -/
structure State where
  cfg : Config
  attached : Bool
  x : Vector U64 8
  pc : U32
  dc : DeviceContext
  agc : Agc
  flk : Flicker
  als : Als
  buf : Buffers
  bus : Bus
  records : List Completion
  inbox : List HostAct
  deriving DecidableEq, Repr

/-- Why the machine stops with no next state. -/
inductive Fault where
  /-- Raised by DISPATCH when `DISPATCH_CAP` is infinite and the status register still reads non-zero
  after the passes the model runs (93_implementation_defined.md U8: `stuck`). Safe: the model stops
  where the hardware goes on, and answers no state (log 7). -/
  | dispatchDoesNotEnd
  deriving DecidableEq, Repr

/-- Why the machine refuses to go on. -/
inductive Refusal where
  /-- Raised by `exec` for an instruction without a meaning yet. Safe: no state is answered. -/
  | notModelled (mnemonic : String)
  /-- Raised at attach, and at every command, when the configuration is ill-formed
  (00_scope.md R7, 93_implementation_defined.md U15: `refuse`). Safe: no state is answered (log 13). -/
  | illFormedConfig
  /-- Raised when HOST acts on a block that was detached (70_reset_and_hazards.md R289). Safe: no state
  is answered (log 12). -/
  | notAttached
  deriving DecidableEq, Repr

/-- What an operation or a step answers. -/
abbrev Outcome := Host.Outcome State Fault Refusal

/-- Hard reset, attach (70_reset_and_hazards.md R286, 10_state.md R46): a block with configuration `c` on
the given bus, with HOST's remaining acts. -/
def State.attach (c : Config) (bus : Bus) (inbox : List HostAct) : State where
  cfg := c
  attached := true
  x := Vector.replicate 8 0
  pc := 0
  dc := deviceContextReset c
  agc := agcReset
  flk := flickerInit c c.flk.fifoThresholdInit
  als := alsInit c
  buf := buffersReset c
  bus := bus
  records := []
  inbox := inbox

/-- The machine right after reset: attached with `CFG_REF` (log 1) to a device of which nothing is known
(log 2), no command issued (log 3). -/
def State.reset : State := State.attach cfgRef ⟨.oracle [] 0, []⟩ []

end Sys2Proof.Machine
end

