-- ==== Sys2Proof/Machine/Bus.lean ====
section
/-! DEFINITION. The bus primitive (20_memory.md R61, R62) over the two devices: the oracle (R72) and the
reference device SIMDEV (R78); and what the device does between commands. -/

namespace Sys2Proof.Machine

/-- The `n` bytes of a scripted answer; bytes the script does not give are free (log 24). -/
def answerBytes (bytes : List Byte) (n draw : Nat) : List Byte :=
  (List.range n).map fun i => bytes.getD i (Config.busByte draw i)

/-- The oracle's next answer to a read of `n` bytes: scripted, else free (log 2). -/
def oracleRead (script : List BusAnswer) (draws n : Nat) : Option (List Byte) × Device :=
  match script with
  | .fail :: rest => (none, .oracle rest draws)
  | .ok bytes :: rest => (some (answerBytes bytes n draws), .oracle rest (draws + 1))
  | [] =>
    if Config.busSucceeds draws then (some (answerBytes [] n draws), .oracle [] (draws + 1))
    else (none, .oracle [] (draws + 1))

/-- The oracle's next answer to a write: scripted, else free (log 2). -/
def oracleWrite (script : List BusAnswer) (draws : Nat) : Bool × Device :=
  match script with
  | .fail :: rest => (false, .oracle rest draws)
  | .ok _ :: rest => (true, .oracle rest draws)
  | [] => (Config.busSucceeds draws, .oracle [] (draws + 1))

/-- The byte of SIMDEV's register at `addr`; past 255 there is none (R78; log 9). -/
def simReg (d : SimDev) (addr : Nat) : Byte :=
  if addr < memSize then memRead d.reg addr else Config.simBeyond addr

/-- What a successful read of `n` bytes at `addr` returns, and SIMDEV after it (R78). -/
def simReadOk (c : Config) (d : SimDev) (addr : Byte) (n : Nat) : List Byte × SimDev :=
  if addr = regAddr c c.reg.fifoData.toNat then
    ((List.range n).map fun i => d.fifo.getD i 0, { d with fifo := d.fifo.drop n })
  else if addr = regAddr c c.reg.fifoLvl.toNat ∧ n = 1 then
    ([BitVec.ofNat 8 (d.fifo.length >>> c.bus.nLow)], d)
  else if addr = regAddr c c.reg.fifoStat.toNat ∧ n = 1 then
    ([BitVec.ofNat 8 (d.fifo.length % 2 ^ c.bus.nLow) ||| (if d.ovf then c.mask.fifoOvf else 0)], d)
  else
    ((List.range n).map fun i => simReg d (addr.toNat + i), d)

/-- SIMDEV after byte `b` is written at address `a` (R78): the status register is write-one-to-clear, the
FIFO clear bit empties the FIFO and reads back 0; past 255 nothing is stored (log 9). -/
def simWriteByte (c : Config) (d : SimDev) (a : Nat) (b : Byte) : SimDev :=
  if a = (regAddr c c.reg.status.toNat).toNat then
    { d with reg := memWrite d.reg a (memRead d.reg a &&& ~~~b) }
  else if a = (regAddr c c.reg.control.toNat).toNat then
    if b &&& c.mask.fifoClr = 0 then { d with reg := memWrite d.reg a b }
    else { d with reg := memWrite d.reg a (b &&& ~~~c.mask.fifoClr), fifo := [], ovf := false }
  else if a < memSize then { d with reg := memWrite d.reg a b }
  else d

/-- SIMDEV after the bytes are written from address `a` on (R78). -/
def simWriteBytes (c : Config) (d : SimDev) (a : Nat) : List Byte → SimDev
  | [] => d
  | b :: bs => simWriteBytes c (simWriteByte c d a b) (a + 1) bs

/-- SIMDEV's answer to a read: a transaction its script of outcomes fails changes nothing (R78, R79). -/
def simRead (c : Config) (d : SimDev) (addr : Byte) (n : Nat) : Option (List Byte) × Device :=
  let d' := { d with outcomes := d.outcomes.tail }
  if d.outcomes.headD true then
    let r := simReadOk c d' addr n
    (some r.1, .sim r.2)
  else (none, .sim d')

/-- SIMDEV's answer to a write (R78, R79). -/
def simWrite (c : Config) (d : SimDev) (addr : Byte) (bytes : List Byte) : Bool × Device :=
  let d' := { d with outcomes := d.outcomes.tail }
  if d.outcomes.headD true then (true, .sim (simWriteBytes c d' addr.toNat bytes))
  else (false, .sim d')

/-- The device's answer to a read of `n` bytes at `addr`. -/
def deviceRead (c : Config) (dev : Device) (addr : Byte) (n : Nat) : Option (List Byte) × Device :=
  match dev with
  | .oracle script draws => oracleRead script draws n
  | .sim d => simRead c d addr n

/-- The device's answer to a write of `bytes` at `addr`. -/
def deviceWrite (c : Config) (dev : Device) (addr : Byte) (bytes : List Byte) : Bool × Device :=
  match dev with
  | .oracle script draws => oracleWrite script draws
  | .sim d => simWrite c d addr bytes

/-- `BusRead(addr, n)` (00_scope.md R11, 20_memory.md R62): the bytes or failure, and the bus after it. -/
def busRead (c : Config) (bus : Bus) (addr : Byte) (n : Nat) : Option (List Byte) × Bus :=
  let r := deviceRead c bus.dev addr n
  (r.1, { dev := r.2, log := .read addr n r.1 :: bus.log })

/-- `BusWrite(addr, bytes)` (00_scope.md R11, 20_memory.md R62): success or failure, and the bus after it. -/
def busWrite (c : Config) (bus : Bus) (addr : Byte) (bytes : List Byte) : Bool × Bus :=
  let r := deviceWrite c bus.dev addr bytes
  (r.1, { dev := r.2, log := .write addr bytes r.1 :: bus.log })

/-- What SIMDEV's test script changes between commands (R78). -/
def simAct (d : SimDev) : DeviceAct → SimDev
  | .poke addr v => { d with reg := memWrite d.reg addr.toNat v }
  | .push bytes => { d with fifo := d.fifo ++ bytes }
  | .overflow ovf => { d with ovf := ovf }
  | .outcomes oks => { d with outcomes := oks }
  | .answers _ => d

/-- What the device does between commands: SIMDEV by its test script, the oracle by a longer script. -/
def deviceAct (dev : Device) (act : DeviceAct) : Device :=
  match dev, act with
  | .sim d, act => .sim (simAct d act)
  | .oracle script draws, .answers more => .oracle (script ++ more) draws
  | .oracle script draws, _ => .oracle script draws

end Sys2Proof.Machine
end

