-- ==== Sys2Proof/Machine/Flags.lean ====
section
/-! DEFINITION. The flag fields of the block: the mode bitmask (10_state.md R23), the update flags (R26),
the sticky fault bits (R28), the saturation flag (R31), and the fault codes (60_exceptions.md R256). -/

namespace Sys2Proof.Machine

/-- The fault codes of 60_exceptions.md R256 (9 to 15 are reserved and never produced). -/
inductive FaultCode where
  | transportError
  | illegalCommand
  | preconditionViolation
  | divideByZero
  | arithOverflow
  | stuckInterrupt
  | busy
  | unknownDevice
  deriving DecidableEq, Repr

/-- The status a fault code is (60_exceptions.md R256). -/
def statusOf : FaultCode → Byte
  | .transportError => 1
  | .illegalCommand => 2
  | .preconditionViolation => 3
  | .divideByZero => 4
  | .arithOverflow => 5
  | .stuckInterrupt => 6
  | .busy => 7
  | .unknownDevice => 8

/-- Bit 0 of `DC.update`, `ALS_UPD` (10_state.md R26). -/
def alsUpd : BitVec 2 := 0b01
/-- Bit 1 of `DC.update`, `SWFLK_UPD` (10_state.md R26). -/
def swflkUpd : BitVec 2 := 0b10
/-- Bit 0 of `DC.mode`, `M_ALS` (10_state.md R23). -/
def modeAls : BitVec 2 := 0b01
/-- Bit 1 of `DC.mode`, `M_FLK` (10_state.md R23). -/
def modeFlk : BitVec 2 := 0b10

/-- Whether the bits `bit` of a mask are set. -/
def bitSet {w : Nat} (mask bit : BitVec w) : Bool := mask &&& bit != 0

/-- `DC.faults` with the bit of a status set; status 0 sets none (10_state.md R28). -/
def recordFault (faults : U16) (status : Byte) : U16 :=
  if status = 0 then faults else faults ||| (1 <<< status.toNat : U16)

/-- Raise update flags in `DC.update` (10_state.md R26). -/
def raiseUpdate (flags : BitVec 2) (s : State) : State :=
  { s with dc := { s.dc with update := s.dc.update ||| flags } }

/-- A one-bit field as the 64-bit value an operand register receives. -/
def flagWord (b : Bool) : U64 := if b then 1 else 0

/-- "any raw sample ≥ 0x3FFF" (41_dsp_kernels.md R134). -/
def saturated (samples : List U16) : Bool := samples.any fun v => decide (satLevel ≤ v.toNat)

end Sys2Proof.Machine
end

