-- ==== Sys2Proof/Machine/Ops.lean ====
section
/-! DEFINITION. The shared operations: how an operation ends (complete or fault, 60_exceptions.md R255),
the operand registers (10_state.md R21), and the register-access procedures every other operation calls
(40_register_access.md R110 to R118, R120, R121). -/

namespace Sys2Proof.Machine

/-- How `raise <Fault>(info)` ends an operation (00_scope.md R11). -/
structure Raised where
  code : FaultCode
  info : U16
  deriving DecidableEq, Repr

/-- A procedure of the pseudocode: it returns a value or raises, and in both cases leaves a state; what
it did before a raise stays (00_scope.md R11, R12). -/
abbrev Proc (α : Type) := EStateM Raised State α

/-- Read something of the state. -/
def look {α : Type} (f : State → α) : Proc α := fun s => .ok (f s) s

/-- Change the state. -/
def update (f : State → State) : Proc Unit := fun s => .ok () (f s)

/-- `raise code(info)` (00_scope.md R11). -/
def raise {α : Type} (code : FaultCode) (info : U16) : Proc α := fun s => .error ⟨code, info⟩ s

/-- Raise `PreconditionViolation(info)` unless `ok` (60_exceptions.md R262). -/
def require (ok : Bool) (info : U16) : Proc Unit :=
  if ok then pure () else raise .preconditionViolation info

/-- Run `p` if `c`. -/
def onlyIf (c : Bool) (p : Proc Unit) : Proc Unit := if c then p else pure ()

/-- The ending of every operation, TAKING A FAULT included (60_exceptions.md R255, R271): `DC.lastErr`,
the sticky bit of `DC.faults`, the completion record to HOST, and `pc + 1`. -/
def endOperation (status : Byte) (info : U16) (s : State) : State :=
  { s with
    pc := s.pc + 1
    dc := { s.dc with lastErr := status, faults := recordFault s.dc.faults status }
    records := ⟨status, info⟩ :: s.records }

/-- The state after an operation that ran to its end: complete with status 0, or the fault it raised. -/
def finish (r : EStateM.Result Raised State Unit) : State :=
  match r with
  | .ok _ s => endOperation 0 0 s
  | .error e s => endOperation (statusOf e.code) e.info s

/-- One whole operation: run the procedure, then end (60_exceptions.md R255). Going back to idle needs no
more: there is no return from a fault and nothing to restore (60_exceptions.md R273). -/
def complete (p : Proc Unit) (s : State) : Outcome := .next (finish (p s))

/-- The refusal of a command that arrives while an operation runs (60_exceptions.md R266). -/
def refuseBusy (s : State) : State :=
  { s with
    dc := { s.dc with faults := recordFault s.dc.faults (statusOf .busy) }
    records := ⟨statusOf .busy, 0⟩ :: s.records }

/-- `x[r]` (10_state.md R21). -/
def getX (s : State) (r : Nat) : U64 := s.x.getD r 0

/-- `x[r] <- v` (10_state.md R21). -/
def setX (r : Nat) (v : U64) (s : State) : State := { s with x := s.x.setIfInBounds r v }

/-- `DC.errcnt + 1`, wrapping (20_memory.md R63 (a)). -/
def countError (s : State) : State := { s with dc := { s.dc with errcnt := s.dc.errcnt + 1 } }

/-- A read transaction on behalf of logical id `reg`; on failure 20_memory.md R63. -/
def transactRead (reg : Byte) (n : Nat) : Proc (List Byte) := fun s =>
  match busRead s.cfg s.bus (regAddr s.cfg reg.toNat) n with
  | (some bytes, bus) => .ok bytes { s with bus := bus }
  | (none, bus) => .error ⟨.transportError, reg.setWidth 16⟩ (countError { s with bus := bus })

/-- A write transaction on behalf of logical id `reg`; on failure 20_memory.md R63. -/
def transactWrite (reg : Byte) (bytes : List Byte) : Proc Unit := fun s =>
  match busWrite s.cfg s.bus (regAddr s.cfg reg.toNat) bytes with
  | (true, bus) => .ok () { s with bus := bus }
  | (false, bus) => .error ⟨.transportError, reg.setWidth 16⟩ (countError { s with bus := bus })

/-- The shadows after a single byte `v` of `reg` was read (40_register_access.md R121). -/
def shadowRead (reg v : Byte) (s : State) : State :=
  { s with dc := { s.dc with
      shEnable := if reg = s.cfg.reg.enable then v else s.dc.shEnable
      shIntenab := if reg = s.cfg.reg.intenab then v else s.dc.shIntenab
      shStatus := if reg = s.cfg.reg.status then v else s.dc.shStatus } }

/-- The shadows after a single byte `v` was written to `reg`: a write changes no `DC.shStatus`
(40_register_access.md R121). Where a configuration gives `R_STATUS` the id of `R_ENABLE` or `R_INTENAB`,
that the shadow of the latter still follows the write is the model's choice (log 27). -/
def shadowWrite (reg v : Byte) (s : State) : State :=
  { s with dc := { s.dc with
      shEnable := if reg = s.cfg.reg.enable then v else s.dc.shEnable
      shIntenab := if reg = s.cfg.reg.intenab then v else s.dc.shIntenab } }

/-- "reg < REG_MAX" (40_register_access.md R110). -/
def checkReg (reg : Byte) : Proc Unit := do
  require (decide (reg.toNat < regMax (← look (·.cfg)))) (reg.setWidth 16)

/-- "word ops require reg < REG_MAX-1", and the two ids stand at consecutive addresses
(40_register_access.md R110, R113). -/
def checkWordReg (reg : Byte) : Proc Unit := do
  let c ← look (·.cfg)
  require (decide (reg.toNat + 1 < regMax c)) (reg.setWidth 16)
  require ((regAddr c (reg.toNat + 1)).toNat == (regAddr c reg.toNat).toNat + 1) (reg.setWidth 16)

/-- `getByte(reg)` (40_register_access.md R111, R121). -/
def getByte (reg : Byte) : Proc Byte := do
  checkReg reg
  let bytes ← transactRead reg 1
  let v := bytes.getD 0 0
  update (shadowRead reg v)
  pure v

/-- `setByte(reg, val)` (40_register_access.md R112, R121). -/
def setByte (reg val : Byte) : Proc Unit := do
  checkReg reg
  transactWrite reg [val]
  update (shadowWrite reg val)

/-- `getWord(reg)`: one two-byte transaction, low byte first (40_register_access.md R113). -/
def getWord (reg : Byte) : Proc U16 := do
  checkWordReg reg
  let bytes ← transactRead reg 2
  pure (le16 (bytes.getD 0 0) (bytes.getD 1 0))

/-- `setWord(reg, val)`: one two-byte transaction, low byte first (40_register_access.md R114). -/
def setWord (reg : Byte) (val : U16) : Proc Unit := do
  checkWordReg reg
  transactWrite reg [lowByte val, highByte val]

/-- The length limits of a buffer transfer: 1 to `BUS_XFER_MAX` (40_register_access.md R115, R116). -/
def checkLength (n : Nat) : Proc Unit := do
  require (n != 0 && decide (n ≤ (← look (·.cfg)).bus.xferMax)) (BitVec.ofNat 16 n)

/-- `getBuf(reg, n)`: the checks, then one transaction of `n` bytes, returned to the caller
(40_register_access.md R115). That the length check stands in the procedure form too is DEDUCED (00_scope.md
R11; log 26): with `BUS_XFER_MAX` below 4 ALSSMP's `getBuf(R_ALS_DATA, 4)` is refused. -/
def getBuf (reg : Byte) (n : Nat) : Proc (List Byte) := do
  checkReg reg
  checkLength n
  transactRead reg n

/-- `setBuf(reg, bytes)`: the checks, then one transaction (40_register_access.md R116). -/
def setBuf (reg : Byte) (bytes : List Byte) : Proc Unit := do
  checkReg reg
  checkLength bytes.length
  transactWrite reg bytes

/-- `getField(reg, mask)`: masked and not shifted down (40_register_access.md R117). -/
def getField (reg mask : Byte) : Proc Byte := do
  let v ← getByte reg
  pure (v &&& mask)

/-- The byte setField writes: "clear masked bits, OR in new bits" (40_register_access.md R118). -/
def fieldMerge (orig val mask : Byte) : Byte := (orig &&& ~~~mask) ||| val

/-- `setField(reg, val, mask)`: read, merge, "write back only if the result differs from the original";
true if a write was made (40_register_access.md R118). -/
def setField (reg val mask : Byte) : Proc Bool := do
  checkReg reg
  require (val &&& ~~~mask == 0) (reg.setWidth 16)
  let orig ← getByte reg
  let new := fieldMerge orig val mask
  if new = orig then pure false
  else do
    setByte reg new
    pure true

/-- A burst of setField triples in list order (46_dispatch.md R217). -/
def setFields : List FieldWrite → Proc Unit
  | [] => pure ()
  | w :: ws => do
    let _ ← setField w.reg w.val w.mask
    setFields ws

end Sys2Proof.Machine
end

