-- ==== Sys2Proof/Machine/Operands.lean ====
section
/-! DEFINITION. The operand forms: buffers by selector and index (20_memory.md R77, 30_encoding.md R101
(3)), flags and channels of one bit (30_encoding.md R92), and wide operands in `x` (R99). -/

namespace Sys2Proof.Machine

/-- The buffers BRD and BWR select (20_memory.md R77). -/
inductive BufferSel where
  | clear
  | wide
  | re
  | im
  | mag
  | win
  | ring
  | xfer
  | cosTab
  | sinTab
  | gainTab
  | winTab
  deriving DecidableEq, Repr

/-- The buffer of a selector; from 12 on there is none (20_memory.md R77). -/
def bufferSel (sel : Byte) : Option BufferSel :=
  match sel.toNat with
  | 0 => some .clear
  | 1 => some .wide
  | 2 => some .re
  | 3 => some .im
  | 4 => some .mag
  | 5 => some .win
  | 6 => some .ring
  | 7 => some .xfer
  | 8 => some .cosTab
  | 9 => some .sinTab
  | 10 => some .gainTab
  | 11 => some .winTab
  | _ => none

/-- The length of a buffer in elements (20_memory.md R77). -/
def bufferLen (c : Config) : BufferSel → Nat
  | .clear | .wide | .re | .im | .mag => c.flk.fftMax
  | .win | .winTab => winN
  | .ring => c.flk.ringMax
  | .xfer => c.bus.xferMax
  | .cosTab | .sinTab => twN
  | .gainTab => gainCodes

/-- Whether BWR may write the buffer (20_memory.md R77). -/
def bufferWritable : BufferSel → Bool
  | .clear | .wide | .re | .im | .mag | .xfer => true
  | .win | .ring | .cosTab | .sinTab | .gainTab | .winTab => false

/-- Element `i` of a buffer as `x[0]` receives it: zero-extended for unsigned element types,
sign-extended for `RE`, `IM`, `COS_TAB`, `SIN_TAB` (47_host_ops.md R239). -/
def bufferRead (s : State) (b : BufferSel) (i : Nat) : U64 :=
  match b with
  | .clear => (s.buf.clear.getD i 0).setWidth 64
  | .wide => (s.buf.wide.getD i 0).setWidth 64
  | .re => s.buf.re.getD i 0
  | .im => s.buf.im.getD i 0
  | .mag => s.buf.mag.getD i 0
  | .win => (s.buf.win.getD i 0).setWidth 64
  | .ring => (s.buf.ring.getD i 0).setWidth 64
  | .xfer => (s.buf.xfer.getD i 0).setWidth 64
  | .cosTab => sext64 (s.cfg.cosTab.getD i 0)
  | .sinTab => sext64 (s.cfg.sinTab.getD i 0)
  | .gainTab => BitVec.ofNat 64 (gainTab i)
  | .winTab => (s.cfg.winTab.getD i 0).setWidth 64

/-- The buffers with `trunc_W(v)` stored at element `i` of a writable one (47_host_ops.md R240). -/
def bufferWrite (buf : Buffers) (b : BufferSel) (i : Nat) (v : U64) : Buffers :=
  match b with
  | .clear => { buf with clear := buf.clear.set i (v.setWidth 16) }
  | .wide => { buf with wide := buf.wide.set i (v.setWidth 16) }
  | .re => { buf with re := buf.re.set i v }
  | .im => { buf with im := buf.im.set i v }
  | .mag => { buf with mag := buf.mag.set i v }
  | .xfer => { buf with xfer := buf.xfer.set i (v.setWidth 8) }
  | .win | .ring | .cosTab | .sinTab | .gainTab | .winTab => buf

/-- An operand-register number, which must be below 8 (30_encoding.md R92). -/
def checkRegNumber (r : Byte) : Proc Unit := require (decide (r.toNat < 8)) (r.setWidth 16)

/-- A flag, channel, feature or trigger operand: 0 or 1, else `PreconditionViolation` (60_exceptions.md R262). -/
def flagOperand (v : Byte) : Proc Bool := do
  require (decide (v.toNat ≤ 1)) (v.setWidth 16)
  pure (v != 0)

end Sys2Proof.Machine
end

