-- ==== Sys2Proof/Machine/Agc.lean ====
section
/-! DEFINITION. AGC and gain manager (44_agc.md R185 to R191): L2C, C2L, AGCEN, AGCSAT, AGCPRED, AGCWIN, AGCMAXG. -/

namespace Sys2Proof.Machine

/-- The largest code up to `c` whose gain does not exceed `g` (0 if none does) (R185). -/
def codeBelow (g : Nat) : Nat → Nat
  | 0 => 0
  | c + 1 => if gainTab (c + 1) ≤ g then c + 1 else codeBelow g c

/-- `linearToGainCode` (R185). -/
def linearToCode (g : Nat) : Nat := codeBelow g maxGainCode

/-- L2C (R185). -/
def execL2c (s : State) : Outcome :=
  complete (do
    let g ← look (getX · 1)
    require (decide (gainTab 0 ≤ g.toNat)) (g.setWidth 16)
    update (setX 0 (BitVec.ofNat 64 (linearToCode g.toNat)))) s

/-- C2L (R186). -/
def execC2l (s : State) : Outcome :=
  complete (do
    let c ← look (getX · 1)
    require (decide (c.toNat ≤ maxGainCode)) (c.setWidth 16)
    update (setX 0 (BitVec.ofNat 64 (gainTab c.toNat)))) s

/-- `a ? mask : 0`, the field value of an on/off setting (R187). -/
def onOff (on : Bool) (mask : Byte) : Byte := if on then mask else 0

/-- AGCEN on (R187): two dependent registers, A then B; no rollback. -/
def execAgcen (on : Byte) (s : State) : Outcome :=
  complete (do
    let b ← flagOperand on
    let c ← look (·.cfg)
    let _ ← setField c.reg.agcA (onOff b c.mask.agcA) c.mask.agcA
    let _ ← setField c.reg.agcB (onOff b c.mask.agcB) c.mask.agcB
    update fun s => { s with agc := { s.agc with enabled := b } }) s

/-- AGCSAT on (R188). -/
def execAgcsat (on : Byte) (s : State) : Outcome :=
  complete (do
    let b ← flagOperand on
    let c ← look (·.cfg)
    let _ ← setField c.reg.agcMode (onOff b c.mask.agcSat) c.mask.agcSat
    update fun s => { s with agc := { s.agc with satAdaptive := b } }) s

/-- AGCPRED on (R189). -/
def execAgcpred (on : Byte) (s : State) : Outcome :=
  complete (do
    let b ← flagOperand on
    let c ← look (·.cfg)
    let _ ← setField c.reg.agcMode (onOff b c.mask.agcPred) c.mask.agcPred
    update fun s => { s with agc := { s.agc with predictive := b } }) s

/-- AGCWIN size (R190). -/
def execAgcwin (size : Byte) (s : State) : Outcome :=
  complete (do
    let c ← look (·.cfg)
    require (size &&& ~~~c.mask.agcWin == 0) (size.setWidth 16)
    let _ ← setField c.reg.agcWin size c.mask.agcWin
    update fun s => { s with agc := { s.agc with winSize := size } }) s

/-- `AGC_MAXG_MASK[ch]` (10_state.md R41). -/
def maxgMask (c : Config) (wide : Bool) : Byte := if wide then c.mask.agcMaxgW else c.mask.agcMaxgC

/-- `AGC_MAXG_SHIFT[ch]` (10_state.md R41). -/
def maxgShift (c : Config) (wide : Bool) : Nat :=
  if wide then c.mask.agcMaxgWShift else c.mask.agcMaxgCShift

/-- `AGC.maxGain[ch] <- code` (R191). -/
def storeMaxGain (wide : Bool) (code : U4) (s : State) : State :=
  { s with agc := if wide then { s.agc with maxGainW := code } else { s.agc with maxGainC := code } }

/-- AGCMAXG ch, code (R191). -/
def execAgcmaxg (ch code : Byte) (s : State) : Outcome :=
  complete (do
    let wide ← flagOperand ch
    require (decide (code.toNat ≤ maxGainCode)) (code.setWidth 16)
    let c ← look (·.cfg)
    let val := code.toNat <<< maxgShift c wide
    require (decide (val < 256) && BitVec.ofNat 8 val &&& ~~~maxgMask c wide == 0) (code.setWidth 16)
    let _ ← setField c.reg.agcMaxg (BitVec.ofNat 8 val) (maxgMask c wide)
    update (storeMaxGain wide (code.setWidth 4))) s

end Sys2Proof.Machine
end

