-- ==== Sys2Proof/Machine/Dsp.lean ====
section
/-! DEFINITION. Fixed-point DSP kernels (41_dsp_kernels.md R130 to R137): ISQRT, WINGEN, WINDOW, FFT, MAG.
None makes a bus transaction. -/

namespace Sys2Proof.Machine

/-- ISQRT (R131): `x[0] <- isqrt(x[1])`. -/
def execIsqrt (s : State) : Outcome :=
  complete (do
    let v ← look (getX · 1)
    update (setX 0 (BitVec.ofNat 64 (isqrt v.toNat)))) s

/-- WINGEN as a procedure (R133): `WIN[i] <- WIN_TAB[i]`. -/
def windowGenerate (s : State) : State :=
  { s with buf := { s.buf with win := overlay s.buf.win 0 s.cfg.winTab } }

/-- WINGEN (R133). -/
def execWingen (s : State) : Outcome := complete (update windowGenerate) s

/-- A windowed sample, `(s * WIN[i]) >> 10` (R134). -/
def windowed (sample : U16) (coefficient : U32) : U64 :=
  BitVec.ofNat 64 ((sample.toNat * coefficient.toNat) >>> winShift)

/-- The 128 windowed samples of the clear channel (R134). -/
def windowedFrame (b : Buffers) : List U64 :=
  (List.range winN).map fun i => windowed (b.clear.getD i 0) (b.win.getD i 0)

/-- The loop of WINDOW (R134): `RE`, `IM` and the sticky saturation flag. -/
def applyWindow (s : State) : State :=
  { s with
    flk := { s.flk with satf := s.flk.satf || saturated (s.buf.clear.take winN) }
    buf := { s.buf with
      re := overlay s.buf.re 0 (windowedFrame s.buf)
      im := overlay s.buf.im 0 (List.replicate winN 0) } }

/-- WINDOW as a procedure (R134). -/
def window : Proc Unit := do
  let n ← look (·.flk.sampleCount)
  require (n.toNat == winN) n
  update applyWindow

/-- WINDOW (R134): `x[0]` is the saturation flag. -/
def execWindow (s : State) : Outcome :=
  complete (do
    window
    update fun s => setX 0 (flagWord s.flk.satf) s) s

/-- The arrays the FFT works on in place (R135). -/
structure Spectrum where
  re : List U64
  im : List U64
  deriving DecidableEq, Repr

/-- Part of an FFT: the arrays after it, or the index an overflow reports with the arrays at that point
(R130: "elements already updated stay updated"). -/
abbrev SpectrumResult := Except (Nat × Spectrum) Spectrum

/-- An i64 element (R130). -/
def elem (l : List U64) (i : Nat) : Int := (l.getD i 0).toInt

/-- `RE[i] <- v`, or `ArithOverflow(i)` (R130). -/
def storeRe (i : Nat) (v : Int) (sp : Spectrum) : SpectrumResult :=
  if fitsI64 v then .ok { sp with re := sp.re.set i (BitVec.ofInt 64 v) } else .error (i, sp)

/-- `IM[i] <- v`, or `ArithOverflow(i)` (R130). -/
def storeIm (i : Nat) (v : Int) (sp : Spectrum) : SpectrumResult :=
  if fitsI64 v then .ok { sp with im := sp.im.set i (BitVec.ofInt 64 v) } else .error (i, sp)

/-- The index reported when an intermediate sum of products of the butterfly on `k` and `p` does not fit:
one of the two, free which (R130; log 8). -/
def sumOverflowIndex (k p : Nat) : Nat := if Config.sumOverflowAtP k p then p else k

/-- One butterfly (R135): `tr`, `ti` from the old elements, then `RE[p]`, `IM[p]`, `RE[k]`, `IM[k]` in this
order. -/
def butterfly (wr wi : Int) (k p : Nat) (sp : Spectrum) : SpectrumResult :=
  let rp := elem sp.re p
  let ip := elem sp.im p
  let rk := elem sp.re k
  let ik := elem sp.im k
  let sumR := wr * rp - wi * ip
  let sumI := wr * ip + wi * rp
  if fitsI64 sumR && fitsI64 sumI then
    let tr := asr sumR 16
    let ti := asr sumI 16
    ((storeRe p (rk - tr) sp).bind (storeIm p (ik - ti))).bind fun sp' =>
      (storeRe k (rk + tr) sp').bind (storeIm k (ik + ti))
  else .error (sumOverflowIndex k p, sp)

/-- The inner loop (R135): the butterflies of one twiddle over `count` blocks, `k` rising by `len`. -/
def fftBlocks (wr wi : Int) (half len : Nat) : Nat → Nat → Spectrum → SpectrumResult
  | 0, _, sp => .ok sp
  | count + 1, k, sp => (butterfly wr wi k (k + half) sp).bind (fftBlocks wr wi half len count (k + len))

/-- The running twiddle of a stage: "advanced incrementally … via fixed-point multiply-and-shift-right-16"
(R135). -/
def twiddleNext (wpr wpi : Int) (w : Int × Int) : Int × Int :=
  (asr (w.1 * wpr - w.2 * wpi) 16, asr (w.1 * wpi + w.2 * wpr) 16)

/-- The middle loop (R135): `count` twiddles from `j` on, each over `blocks` blocks. -/
def fftTwiddles (wpr wpi : Int) (half len blocks : Nat) : Nat → Nat → Int × Int → Spectrum → SpectrumResult
  | 0, _, _, sp => .ok sp
  | count + 1, j, w, sp =>
    (fftBlocks w.1 w.2 half len blocks j sp).bind
      (fftTwiddles wpr wpi half len blocks count (j + 1) (twiddleNext wpr wpi w))

/-- The stage step `e^(-2 pi i / L)` in Q16 from the tables (R135). -/
def stageStep (c : Config) (len : Nat) : Int × Int :=
  ((c.cosTab.getD (twN / len) 0).toInt, -(c.sinTab.getD (twN / len) 0).toInt)

/-- Stage `s` of an n-point transform, blocks of length `L = 2^s` (R135). -/
def fftStage (c : Config) (n s : Nat) (sp : Spectrum) : SpectrumResult :=
  let len := 2 ^ s
  let step := stageStep c len
  fftTwiddles step.1 step.2 (len / 2) len (n / len) (len / 2) 0 (65536, 0) sp

/-- The stages from `s` on, `count` of them (R135). -/
def fftStages (c : Config) (n : Nat) : Nat → Nat → Spectrum → SpectrumResult
  | 0, _, sp => .ok sp
  | count + 1, s, sp => (fftStage c n s sp).bind (fftStages c n count (s + 1))

/-- The bit-reversal permutation of the first `2^m` elements (R132): exchanging `i` with `bitrev(i, m)`
leaves `l[bitrev(i, m)]` at `i` (log 16). -/
def bitReverse (m : Nat) (l : List U64) : List U64 :=
  overlay l 0 ((List.range (2 ^ m)).map fun i => l.getD (bitrev i m) 0)

/-- The transform of the first n elements, n a power of two (R135). -/
def fftRun (c : Config) (n : Nat) (sp : Spectrum) : SpectrumResult :=
  let m := Nat.log2 n
  fftStages c n m 1 ⟨bitReverse m sp.re, bitReverse m sp.im⟩

/-- Put the transformed arrays into `RE` and `IM`. -/
def storeSpectrum (sp : Spectrum) (s : State) : State :=
  { s with buf := { s.buf with re := sp.re, im := sp.im } }

/-- FFT n as a procedure (R135): first the silent no-op above `FFT_MAX`, then the power-of-two check. -/
def fft (n : U16) : Proc Unit := do
  let c ← look (·.cfg)
  if c.flk.fftMax < n.toNat then pure ()
  else do
    require (n != 0 && isPow2 n.toNat) n
    let b ← look (·.buf)
    match fftRun c n.toNat ⟨b.re, b.im⟩ with
    | .ok sp => update (storeSpectrum sp)
    | .error (i, sp) => do
      update (storeSpectrum sp)
      raise .arithOverflow (BitVec.ofNat 16 i)

/-- FFT n (R135). -/
def execFft (n : U16) (s : State) : Outcome := complete (fft n) s

/-- `r * r + q * q` of the pre-shifted element `i` (R137). -/
def power (h : Nat) (b : Buffers) (i : Nat) : Nat :=
  let r := asr (elem b.re i) h
  let q := asr (elem b.im i) h
  (r * r + q * q).toNat

/-- The loop of MAG (R137): bins `i`, `i + 1`, … written in ascending order until one overflows. -/
def magLoop (h : Nat) (b : Buffers) : Nat → Nat → List U64 → Except (Nat × List U64) (List U64)
  | 0, _, out => .ok out
  | count + 1, i, out =>
    if power h b i < 2 ^ 64 then
      magLoop h b count (i + 1) (out.set i (BitVec.ofNat 64 (isqrt (power h b i))))
    else .error (i, out)

/-- `MAG` replaced. -/
def storeMag (l : List U64) (s : State) : State := { s with buf := { s.buf with mag := l } }

/-- MAG n as a procedure (R137). -/
def magnitude (n : U16) : Proc Unit := do
  let c ← look (·.cfg)
  require (n != 0 && decide (n.toNat ≤ c.flk.fftMax)) n
  let b ← look (·.buf)
  match magLoop c.flk.magPreshift b n.toNat 0 b.mag with
  | .ok out => update (storeMag out)
  | .error (i, out) => do
    update (storeMag out)
    raise .arithOverflow (BitVec.ofNat 16 i)

/-- MAG n (R137). -/
def execMag (n : U16) (s : State) : Outcome := complete (magnitude n) s

end Sys2Proof.Machine
end

