-- ==== Sys2Proof/Machine/Fifo.lean ====
section
/-! DEFINITION. FIFO drain and frame parser (42_fifo_parser.md R150 to R157): DRAIN, DEINT, PMETA, FIFOCLR. -/

namespace Sys2Proof.Machine

/-- `FRAME_BYTES` (R150). -/
def frameBytes (f : Flicker) : Nat :=
  4 * f.sampleCount.toNat + 2 * (f.metaGain.toNat + f.metaCsum.toNat + f.metaEnd.toNat)

/-- FIFOCLR as a procedure (R156). -/
def fifoClear : Proc Unit := do
  let c ← look (·.cfg)
  let _ ← setField c.reg.control c.mask.fifoClr c.mask.fifoClr
  pure ()

/-- FIFOCLR (R156). -/
def execFifoclr (s : State) : Outcome := complete fifoClear s

/-- `RING.len <- 0; FLK.dataReady <- 0`: the ring's bytes are not erased (R153). -/
def emptyRing (s : State) : State :=
  { s with buf := { s.buf with ringLen := 0 }, flk := { s.flk with dataReady := false } }

/-- Reset-and-abort (R153): the recovery from FIFO overflow and from a full ring. -/
def resetAndAbort : Proc Unit := do
  fifoClear
  update emptyRing

/-- Pending bytes from the level and the low status bits (R151). -/
def pendingBytes (c : Config) (lvl fst : Byte) : Nat :=
  (lvl.toNat <<< c.bus.nLow) ||| (fst.toNat % 2 ^ c.bus.nLow)

/-- Append a chunk to the ring (R152). -/
def appendRing (bytes : List Byte) (s : State) : State :=
  { s with buf := { s.buf with
      ring := overlay s.buf.ring s.buf.ringLen.toNat bytes
      ringLen := s.buf.ringLen + BitVec.ofNat 16 bytes.length } }

/-- The chunk loop of DRAIN (R152), `fuel` chunks at most; false if a chunk did not fit the ring. -/
def drainChunks : Nat → Nat → Proc Bool
  | 0, _ => pure true
  | fuel + 1, rem => do
    if rem = 0 then pure true
    else do
      let s ← look id
      let chunk := min rem s.cfg.bus.xferMax
      if s.flk.fifoThreshold.toNat < s.buf.ringLen.toNat + chunk then pure false
      else do
        let bytes ← getBuf s.cfg.reg.fifoData chunk
        update (appendRing bytes)
        drainChunks fuel (rem - chunk)

/-- `FLK.dataReady <- RING.len ≥ FRAME_BYTES` (R152). -/
def markReady (s : State) : State :=
  { s with flk := { s.flk with dataReady := decide (frameBytes s.flk ≤ s.buf.ringLen.toNat) } }

/-- DRAIN as a procedure (R151, R152): whether a full frame is buffered. Each chunk holds at least one
byte, so `pending` chunks are enough. -/
def drain : Proc Bool := do
  let c ← look (·.cfg)
  let lvl ← getByte c.reg.fifoLvl
  let fst ← getByte c.reg.fifoStat
  let pending := pendingBytes c lvl fst
  if fst &&& c.mask.fifoOvf != 0 then do
    resetAndAbort
    pure false
  else do
    let fits ← drainChunks pending pending
    if fits then do
      update markReady
      look (·.flk.dataReady)
    else do
      resetAndAbort
      pure false

/-- DRAIN (R152): `x[0]` is `FLK.dataReady`. -/
def execDrain (s : State) : Outcome :=
  complete (do
    let ready ← drain
    update (setX 0 (flagWord ready))) s

/-- `LE16(RING[off], RING[off + 1])` (R150). -/
def ringWord (b : Buffers) (off : Nat) : U16 := le16 (b.ring.getD off 0) (b.ring.getD (off + 1) 0)

/-- The clear samples of the first n pairs (R150, R154). -/
def clearSamples (b : Buffers) (n : Nat) : List U16 := (List.range n).map fun i => ringWord b (4 * i)

/-- The wideband samples of the first n pairs (R150, R154). -/
def wideSamples (b : Buffers) (n : Nat) : List U16 := (List.range n).map fun i => ringWord b (4 * i + 2)

/-- The loop of DEINT (R154). -/
def splitSamples (n : Nat) (s : State) : State :=
  { s with buf := { s.buf with
      clear := overlay s.buf.clear 0 (clearSamples s.buf n)
      wide := overlay s.buf.wide 0 (wideSamples s.buf n) } }

/-- A frame size the sample arrays hold: 1 to `FFT_MAX` (R154, 43_flicker.md R165). -/
def checkFrameSize (n : U16) : Proc Unit := do
  let c ← look (·.cfg)
  require (n != 0 && decide (n.toNat ≤ c.flk.fftMax)) n

/-- DEINT as a procedure (R154). -/
def deinterleave : Proc Unit := do
  let n ← look (·.flk.sampleCount)
  checkFrameSize n
  let len ← look (·.buf.ringLen)
  require (decide (4 * n.toNat ≤ len.toNat)) len
  update (splitSamples n.toNat)

/-- DEINT (R154). -/
def execDeint (s : State) : Outcome := complete deinterleave s

/-- The gain nibbles of a gain word, modulator 0 least significant (R150, R155). -/
def gainNibbles (nMod : Nat) (gw : U16) : List U4 :=
  (List.range nMod).map fun m => (gw >>> (4 * m)).setWidth 4

/-- The trailer fields of a frame (R155): each enabled field at the offset the enabled ones before it
leave, in the order gain, checksum, end-marker (90_conflicts.md C3). -/
def parseTrailer (s : State) : State :=
  let f := s.flk
  let offGain := 4 * f.sampleCount.toNat
  let offCsum := offGain + 2 * f.metaGain.toNat
  let offEnd := offCsum + 2 * f.metaCsum.toNat
  { s with flk := { f with
      gain := if f.metaGain then gainNibbles s.cfg.flk.nMod (ringWord s.buf offGain) else f.gain
      checksum := if f.metaCsum then ringWord s.buf offCsum else f.checksum
      endMarker := if f.metaEnd then ringWord s.buf offEnd else f.endMarker } }

/-- PMETA as a procedure (R155). -/
def parseMeta : Proc Unit := do
  let s ← look id
  require (decide (frameBytes s.flk ≤ s.buf.ringLen.toNat)) s.buf.ringLen
  update parseTrailer

/-- PMETA (R155). -/
def execPmeta (s : State) : Outcome := complete parseMeta s

end Sys2Proof.Machine
end

