-- ==== Sys2Proof/Machine/Flicker.lean ====
section
/-! DEFINITION. Flicker frequency estimator (43_flicker.md R165 to R172): FAVG, GNORM, THRESH, PEAK, FDECIDE,
B2MHZ, MHZ2B, FLKEST. -/

namespace Sys2Proof.Machine

/-- The sum of the first n samples (R165). -/
def sampleSum (l : List U16) (n : Nat) : Nat := ((l.take n).map (·.toNat)).sum

/-- `FLK.avgC`, `FLK.avgW` (R165). -/
def storeAverages (n : Nat) (s : State) : State :=
  { s with flk := { s.flk with
      avgC := BitVec.ofNat 32 (sampleSum s.buf.clear n / n)
      avgW := BitVec.ofNat 32 (sampleSum s.buf.wide n / n) } }

/-- FAVG as a procedure (R165). -/
def frameAverages : Proc Unit := do
  let n ← look (·.flk.sampleCount)
  checkFrameSize n
  update (storeAverages n.toNat)

/-- FAVG (R165). -/
def execFavg (s : State) : Outcome :=
  complete (do
    frameAverages
    update fun s => setX 1 (s.flk.avgW.setWidth 64) (setX 0 (s.flk.avgC.setWidth 64) s)) s

/-- The gain code of modulator m. -/
def gainOf (s : State) (m : Nat) : U4 := s.flk.gain.getD m 0

/-- An average taken at gain code `code` referred to `GAIN_REF_CODE`, floor (R166). -/
def normalise (c : Config) (avg : U32) (code : U4) : U64 :=
  BitVec.ofNat 64 (avg.toNat * gainTab c.flk.gainRefCode.toNat / gainTab code.toNat)

/-- GNORM as a procedure (R166). -/
def gainNormalise : Proc Unit := do
  let c ← look (·.cfg)
  let codeC ← look (gainOf · c.flk.modClear)
  let codeW ← look (gainOf · c.flk.modWide)
  require (decide (codeC.toNat ≤ maxGainCode)) (codeC.setWidth 16)
  require (decide (codeW.toNat ≤ maxGainCode)) (codeW.setWidth 16)
  update fun s => { s with flk := { s.flk with
    normC := normalise c s.flk.avgC codeC
    normW := normalise c s.flk.avgW codeW } }

/-- GNORM (R166). -/
def execGnorm (s : State) : Outcome :=
  complete (do
    gainNormalise
    update fun s => setX 1 s.flk.normW (setX 0 s.flk.normC s)) s

/-- The threshold value over the integers: one floor division, at the end (R167). -/
def thresholdValue (c : Config) (mag0 normC : Nat) : Nat :=
  mag0 * max c.flk.ratioFloor.toNat (c.flk.targetClear.toNat / normC) * c.flk.thrK.toNat / thrDiv

/-- THRESH as a procedure (R167). -/
def adaptiveThreshold : Proc Unit := do
  let s ← look id
  if s.flk.normC = 0 then raise .divideByZero 0
  else do
    let t := thresholdValue s.cfg (s.buf.mag.getD 0 0).toNat s.flk.normC.toNat
    if 2 ^ 64 ≤ t then raise .arithOverflow 0
    else update fun s => { s with flk := { s.flk with thresh := BitVec.ofNat 64 t } }

/-- THRESH (R167). -/
def execThresh (s : State) : Outcome :=
  complete (do
    adaptiveThreshold
    update fun s => setX 0 s.flk.thresh s) s

/-- The bin of the maximum magnitude among `best` and the `count` bins from `i` on; the first of equal
maxima wins (R168). -/
def peakScan (mag : List U64) : Nat → Nat → Nat → Nat
  | 0, _, best => best
  | count + 1, i, best =>
    peakScan mag count (i + 1) (if (mag.getD best 0).toNat < (mag.getD i 0).toNat then i else best)

/-- The bin of the maximum magnitude in `[BIN_LO, BIN_HI]` (R168). -/
def peakBin (mag : List U64) : Nat := peakScan mag (binHi - binLo) (binLo + 1) binLo

/-- PEAK as a procedure (R168). -/
def findPeak (s : State) : State :=
  { s with flk := { s.flk with
      peakBin := BitVec.ofNat 16 (peakBin s.buf.mag)
      peakMag := s.buf.mag.getD (peakBin s.buf.mag) 0 } }

/-- PEAK (R168). -/
def execPeak (s : State) : Outcome :=
  complete (do
    update findPeak
    update fun s => setX 1 s.flk.peakMag (setX 0 (s.flk.peakBin.setWidth 64) s)) s

/-- `bin * SAMPLE_RATE_MHZ / N`, floor (R169, R170). -/
def binToMhz (c : Config) (bin n : Nat) : Nat := bin * c.flk.sampleRateMhz.toNat / n

/-- `FLK.freq` replaced. -/
def storeFreq (f : U32) (s : State) : State := { s with flk := { s.flk with freq := f } }

/-- FDECIDE as a procedure (R169): "exceeds" is strictly greater. -/
def decideFrequency : Proc Unit := do
  let s ← look id
  let n := s.flk.sampleCount
  require (n != 0) 0
  if s.flk.thresh.toNat < s.flk.peakMag.toNat then do
    let f := binToMhz s.cfg s.flk.peakBin.toNat n.toNat
    if 2 ^ 32 ≤ f then raise .arithOverflow s.flk.peakBin
    else update (storeFreq (BitVec.ofNat 32 f))
  else update (storeFreq 0)

/-- FDECIDE (R169). -/
def execFdecide (s : State) : Outcome :=
  complete (do
    decideFrequency
    update fun s => setX 0 (s.flk.freq.setWidth 64) s) s

/-- The operand checks of B2MHZ and MHZ2B (R170, R171). -/
def checkConversion (n : U16) (v : U64) : Proc Unit := do
  require (n != 0) 0
  require (decide (v.toNat < 2 ^ 32)) (v.setWidth 16)

/-- B2MHZ (R170). -/
def execB2mhz (s : State) : Outcome :=
  complete (do
    let n ← look (·.flk.sampleCount)
    let v ← look (getX · 1)
    checkConversion n v
    let c ← look (·.cfg)
    update (setX 0 (BitVec.ofNat 64 (binToMhz c v.toNat n.toNat)))) s

/-- `f * N / SAMPLE_RATE_MHZ`, floor (R171). -/
def mhzToBin (c : Config) (f n : Nat) : Nat := f * n / c.flk.sampleRateMhz.toNat

/-- MHZ2B (R171). -/
def execMhz2b (s : State) : Outcome :=
  complete (do
    let n ← look (·.flk.sampleCount)
    let v ← look (getX · 1)
    checkConversion n v
    let c ← look (·.cfg)
    update (setX 0 (BitVec.ofNat 64 (mhzToBin c v.toNat n.toNat)))) s

/-- The analysis of a buffered frame of n samples, DEINT to FDECIDE in the source's order (R172). -/
def analyseFrame (n : U16) : Proc Unit := do
  deinterleave
  parseMeta
  frameAverages
  gainNormalise
  window
  fft n
  magnitude n
  adaptiveThreshold
  update findPeak
  decideFrequency

/-- `FLK.satf <- 0` (R172). -/
def clearSaturation (s : State) : State := { s with flk := { s.flk with satf := false } }

/-- FLKEST as a procedure (R172): whether a frame was processed. -/
def flickerCycle : Proc Bool := do
  update clearSaturation
  let ready ← drain
  if ready then do
    let n ← look (·.flk.sampleCount)
    let c ← look (·.cfg)
    let fits := decide (n.toNat ≤ c.flk.fftMax)
    onlyIf fits (analyseFrame n)
    fifoClear
    update emptyRing
    pure fits
  else pure false

/-- FLKEST (R172): `x[0]` is 1 when a frame was processed. -/
def execFlkest (s : State) : Outcome :=
  complete (do
    let done ← flickerCycle
    update (setX 0 (flagWord done))) s

end Sys2Proof.Machine
end

