-- ==== Sys2Proof/Machine/Als.lean ====
section
/-! DEFINITION. ALS lux/IR calibration pipeline (45_als.md R200 to R204): ALSSMP, ALSCALC, ALSEQ. -/

namespace Sys2Proof.Machine

/-- `rescale(v, s)` (R201): "scale 0 ⇒ multiply by 2; else right-shift by scale−1". -/
def rescale (v scale : Nat) : Nat := if scale = 0 then 2 * v else v >>> (scale - 1)

/-- The IR estimate (R203 (2)): 0 if saturated or w < c. -/
def irOf (c : Config) (satf : Bool) (clear wide : Nat) : Nat :=
  if satf || decide (wide < clear) then 0
  else (((c.als.irWNum * wide : Nat) : Int) - ((c.als.irCNum * clear : Nat) : Int)).toNat / c.als.irDen

/-- CWRatio (R203 (3)): clamped to 15, forced to 15 if w is 0. -/
def cwRatioOf (clear wide : Nat) : Nat := if wide = 0 then cwRatioMax else min cwRatioMax (clear / wide)

/-- The lux formula's second factor (R203 (4)). -/
def luxFactor (coefA coefB : Int) (clear wide : Nat) : Int :=
  if cwRatioOf clear wide = 0 then tdiv (coefA * clear) wide + coefB
  else coefA * cwRatioOf clear wide + coefB

/-- The lux over the integers (R203 (4)): the shift by 10 applies to the whole product. -/
def luxOf (coefA coefB : Int) (clear wide : Nat) : Int := asr (clear * luxFactor coefA coefB clear wide) luxShift

/-- Publish a sample (R203 (5)): raw and IR-corrected counts, IR, ratio, lux, the rolling average, and the
ALS-update flag. -/
def publishSample (clear wide : Nat) (lux : U64) (s : State) : State :=
  let ir := irOf s.cfg s.flk.satf clear wide
  raiseUpdate alsUpd { s with als := { s.als with
    rawClear := BitVec.ofNat 32 clear
    rawWide := BitVec.ofNat 32 wide
    ir := BitVec.ofNat 32 ir
    cwRatio := BitVec.ofNat 8 (cwRatioOf clear wide)
    clearCorr := BitVec.ofNat 32 (clear - ir)
    wideCorr := BitVec.ofNat 32 (wide - ir)
    lux := lux
    luxAvg := luxAverageOf s.cfg s.als.luxAvg lux } }

/-- `alsCompute(c, w)` (R203). -/
def alsCompute (clear wide : Nat) : Proc Unit := do
  let a ← look (·.als)
  let lux := luxOf a.coefA.toInt a.coefB.toInt clear wide
  if fitsI64 lux then update (publishSample clear wide (BitVec.ofInt 64 lux))
  else raise .arithOverflow 0

/-- The scale of a channel from the status byte (R202). -/
def scaleOf (st mask : Byte) (shift : Nat) : Nat := (st &&& mask).toNat >>> shift

/-- ALSSMP as a procedure (R202): the data block first, then the status. `getBuf` refuses the 4 bytes when
`BUS_XFER_MAX` is smaller (log 26). -/
def alsSample : Proc Unit := do
  let c ← look (·.cfg)
  let raw ← getBuf c.reg.alsData 4
  let st ← getByte c.reg.alsStat
  let c0 := (le16 (raw.getD 0 0) (raw.getD 1 0)).toNat
  let w0 := (le16 (raw.getD 2 0) (raw.getD 3 0)).toNat
  let sC := scaleOf st c.mask.scaleC c.mask.scaleCShift
  let sW := scaleOf st c.mask.scaleW c.mask.scaleWShift
  require (decide (sC ≤ 15) && decide (sW ≤ 15)) (st.setWidth 16)
  alsCompute (rescale c0 sC) (rescale w0 sW)

/-- ALSSMP (R202). -/
def execAlssmp (s : State) : Outcome :=
  complete (do
    alsSample
    update fun s => setX 0 s.als.lux s) s

/-- ALSCALC (R203): the operands must be below 2^31. -/
def execAlscalc (s : State) : Outcome :=
  complete (do
    let c ← look (getX · 1)
    let w ← look (getX · 2)
    require (decide (c.toNat < 2 ^ 31) && decide (w.toNat < 2 ^ 31)) 0
    alsCompute c.toNat w.toNat
    update fun s => setX 0 s.als.lux s) s

/-- `ALS.gainC`, `ALS.gainW` from the flicker path's gain codes (R204). -/
def copyGains (s : State) : State :=
  { s with als := { s.als with
      gainC := gainOf s s.cfg.flk.modClear
      gainW := gainOf s s.cfg.flk.modWide } }

/-- ALSEQ as a procedure (R204): the plain averages of the flicker path. -/
def alsEquivalent : Proc Unit := do
  update copyGains
  let f ← look (·.flk)
  alsCompute f.avgC.toNat f.avgW.toNat

/-- ALSEQ (R204). -/
def execAlseq (s : State) : Outcome :=
  complete (do
    alsEquivalent
    update fun s => setX 0 s.als.lux s) s

end Sys2Proof.Machine
end

