-- ==== Sys2Proof/Machine/EventDispatcher.lean ====
section
/-! DEFINITION. Event dispatcher, configuration and result operations (46_dispatch.md R215 to R221): DISPATCH,
FEATEN, FEATDIS, SETTHR, GETALS, GETFLK; re-initialisation (70_reset_and_hazards.md R287, R288). -/

namespace Sys2Proof.Machine

/-- `DC.phase` replaced (R215). -/
def setPhase (p : Phase) (s : State) : State := { s with dc := { s.dc with phase := p } }

/-- The flicker branch of a pass (R216 (1)). -/
def flickerBranch : Proc Unit := do
  let done ← flickerCycle
  onlyIf done do
    alsEquivalent
    update (raiseUpdate (alsUpd ||| swflkUpd))

/-- (1) of a pass: the flicker branch, if its status bit is set and flicker mode is on (R216). -/
def serveFlicker (st : Byte) : Proc Unit := do
  let c ← look (·.cfg)
  let mode ← look (·.dc.mode)
  onlyIf (bitSet st c.mask.stFlk && bitSet mode modeFlk) flickerBranch

/-- (2) of a pass: ALSSMP, if its status bit is set and ALS mode is on (R216). -/
def serveAls (st : Byte) : Proc Unit := do
  let c ← look (·.cfg)
  let mode ← look (·.dc.mode)
  onlyIf (bitSet st c.mask.stAls && bitSet mode modeAls) alsSample

/-- (3) of a pass: "Write back (clear) every latched status bit that was non-zero" (R216). -/
def writeBack (st : Byte) : Proc Unit := do
  let c ← look (·.cfg)
  onlyIf (st != 0) (setByte c.reg.status st)

/-- A read of the status register (R216 (1), (4)). -/
def readStatus : Proc Byte := do
  let c ← look (·.cfg)
  getByte c.reg.status

/-- One pass of DISPATCH (R216 (1) to (4)): the re-read status. -/
def dispatchPass : Proc Byte := do
  let st ← readStatus
  serveFlicker st
  serveAls st
  writeBack st
  readStatus

/-- The loop of DISPATCH with `more` passes allowed after the first (R216): the last status read, 0 if the
loop was left because it read 0. -/
def dispatchLoop : Nat → Proc Byte
  | 0 => dispatchPass
  | more + 1 => do
    let st2 ← dispatchPass
    if st2 = 0 then pure 0 else dispatchLoop more

/-- (5) of R216: read and clear the update flags. -/
def consumeUpdate (s : State) : State :=
  setX 0 (s.dc.update.setWidth 64) { s with dc := { s.dc with update := 0 } }

/-- `p`, with `DC.phase` Dispatch while it runs and Idle however it ends (R215). -/
def inDispatch {α : Type} (p : Proc α) : Proc α := fun s =>
  match p (setPhase .dispatch s) with
  | .ok a s' => .ok a (setPhase .idle s')
  | .error e s' => .error e (setPhase .idle s')

/-- DISPATCH with a cap of `n` passes (R216, 60_exceptions.md R265); the first pass runs before the cap is
looked at. -/
def dispatchCapped (n : Nat) : Proc Unit := do
  let st2 ← inDispatch (dispatchLoop (n - 1))
  if st2 = 0 then update consumeUpdate else raise .stuckInterrupt (st2.setWidth 16)

/-- DISPATCH (R216). With an infinite cap the model runs `fuel` further passes; if the status still reads
non-zero after them it answers that the operation does not end (93_implementation_defined.md U8; log 7). -/
def execDispatch (s : State) : Outcome :=
  match s.cfg.dispatchCap with
  | .passes n => complete (dispatchCapped n) s
  | .unbounded fuel =>
    match inDispatch (dispatchLoop fuel) s with
    | .ok st2 s' => if st2 = 0 then complete (update consumeUpdate) s' else .fault .dispatchDoesNotEnd
    | .error e s' => .next (finish (.error e s'))

/-- Flicker re-initialisation (70_reset_and_hazards.md R287): the FIFO threshold is kept, the ring is
emptied, the window is generated. -/
def reinitFlicker (s : State) : State :=
  windowGenerate { s with
    flk := flickerInit s.cfg s.flk.fifoThreshold
    buf := { s.buf with ringLen := 0 } }

/-- ALS re-initialisation (70_reset_and_hazards.md R288). -/
def reinitAls (s : State) : State := { s with als := alsInit s.cfg }

/-- `EN_SEQ[f][t]` (00_scope.md R6, R217). -/
def enableSeq (c : Config) (flk : Bool) (t : Trigger) : List FieldWrite :=
  match flk, t with
  | false, .int => c.bus.enAlsInt
  | false, .poll => c.bus.enAlsPoll
  | true, .int => c.bus.enFlkInt
  | true, .poll => c.bus.enFlkPoll

/-- `DIS_SEQ[f]` (00_scope.md R6, R217). -/
def disableSeq (c : Config) (flk : Bool) : List FieldWrite := if flk then c.bus.disFlk else c.bus.disAls

/-- The bit of `DC.mode` of a feature (10_state.md R23). -/
def modeBit (flk : Bool) : BitVec 2 := if flk then modeFlk else modeAls

/-- The trigger mode of an operand (R217: 0 = INT, 1 = POLL). -/
def triggerOf (poll : Bool) : Trigger := if poll then .poll else .int

/-- `DC.mode[a] <- 1; DC.trig <- b`, and for ALS `ALS.state <- RGB` (R217). -/
def markEnabled (flk : Bool) (t : Trigger) (s : State) : State :=
  { s with
    dc := { s.dc with mode := s.dc.mode ||| modeBit flk, trig := t }
    als := if flk then s.als else { s.als with state := .rgb } }

/-- FEATEN feat, trig (R217). -/
def execFeaten (feat trig : Byte) (s : State) : Outcome :=
  complete (do
    let flk ← flagOperand feat
    let poll ← flagOperand trig
    let dc ← look (·.dc)
    require (dc.mode == 0 || dc.trig == triggerOf poll) (trig.setWidth 16)
    update (if flk then reinitFlicker else reinitAls)
    let c ← look (·.cfg)
    setFields (enableSeq c flk (triggerOf poll))
    update (markEnabled flk (triggerOf poll))) s

/-- FEATDIS feat (R218). -/
def execFeatdis (feat : Byte) (s : State) : Outcome :=
  complete (do
    let flk ← flagOperand feat
    let c ← look (·.cfg)
    setFields (disableSeq c flk)
    update fun s => { s with dc := { s.dc with mode := s.dc.mode &&& ~~~modeBit flk } }) s

/-- `FLK.fifoThreshold <- thr`; the ring is emptied because its capacity changes (R219). -/
def storeThreshold (thr : U16) (s : State) : State :=
  emptyRing { s with flk := { s.flk with fifoThreshold := thr } }

/-- SETTHR imm16 (R219). -/
def execSetthr (thr : U16) (s : State) : Outcome :=
  complete (do
    let c ← look (·.cfg)
    require (thr != 0 && decide (thr.toNat ≤ c.flk.ringMax)) thr
    setFields (thrWriteList c thr)
    update (storeThreshold thr)) s

/-- The eight results of GETALS (R220). -/
def alsResult (s : State) : Vector U64 8 :=
  #v[s.als.clearCorr.setWidth 64,
     s.als.ir.setWidth 64,
     s.als.wideCorr.setWidth 64,
     s.als.gainC.setWidth 64 ||| (s.als.gainW.setWidth 64 <<< 8),
     s.als.rawClear.setWidth 64 ||| (s.als.rawWide.setWidth 64 <<< 32),
     s.als.itime.setWidth 64,
     s.als.lux,
     flagWord s.flk.satf]

/-- GETALS (R220): a snapshot, no other state changes. -/
def execGetals (s : State) : Outcome := complete (update fun s => { s with x := alsResult s }) s

/-- GETFLK (R221): a snapshot. -/
def execGetflk (s : State) : Outcome := complete (update fun s => setX 0 (s.flk.freq.setWidth 64) s) s

end Sys2Proof.Machine
end

