-- ==== Sys2Proof/Machine/HostUtil.lean ====
section
/-! DEFINITION. Host utility operations (47_host_ops.md R235 to R240): NOP, XLI, XLIH, XMOV, BRD, BWR. None
makes a bus transaction. -/

namespace Sys2Proof.Machine

/-- NOP (R235). -/
def execNop (s : State) : Outcome := complete (pure ()) s

/-- XLI d, imm16 (R236): the upper 48 bits become 0. -/
def execXli (d : Byte) (imm : U16) (s : State) : Outcome :=
  complete (do
    checkRegNumber d
    update (setX d.toNat (imm.setWidth 64))) s

/-- `((x << 16) | imm16) mod 2^64` (R237). -/
def shiftIn (v : U64) (imm : U16) : U64 := (v <<< 16) ||| imm.setWidth 64

/-- XLIH d, imm16 (R237): the old top 16 bits are lost. -/
def execXlih (d : Byte) (imm : U16) (s : State) : Outcome :=
  complete (do
    checkRegNumber d
    let v ← look (getX · d.toNat)
    update (setX d.toNat (shiftIn v imm))) s

/-- XMOV d, s (R238). -/
def execXmov (d src : Byte) (s : State) : Outcome :=
  complete (do
    checkRegNumber d
    checkRegNumber src
    let v ← look (getX · src.toNat)
    update (setX d.toNat v)) s

/-- The checks and the read of BRD (R239): the selector exists, the index is inside the buffer. -/
def bufferFetch (sel : Byte) (idx : U16) : Proc U64 := do
  match bufferSel sel with
  | none => raise .preconditionViolation (sel.setWidth 16)
  | some b =>
    require (decide (idx.toNat < bufferLen (← look (·.cfg)) b)) idx
    look (bufferRead · b idx.toNat)

/-- BRD sel, idx (R239). -/
def execBrd (sel : Byte) (idx : U16) (s : State) : Outcome :=
  complete (do
    let e ← bufferFetch sel idx
    update (setX 0 e)) s

/-- The checks and the write of BWR (R240): the selector exists, the buffer is writable, the index is
inside it, in this order. -/
def bufferStore (sel : Byte) (idx : U16) (v : U64) : Proc Unit := do
  match bufferSel sel with
  | none => raise .preconditionViolation (sel.setWidth 16)
  | some b =>
    require (bufferWritable b) (sel.setWidth 16)
    require (decide (idx.toNat < bufferLen (← look (·.cfg)) b)) idx
    update fun s => { s with buf := bufferWrite s.buf b idx.toNat v }

/-- BWR sel, idx (R240): the value is `x[1]`. -/
def execBwr (sel : Byte) (idx : U16) (s : State) : Outcome :=
  complete (do
    let v ← look (getX · 1)
    bufferStore sel idx v) s

end Sys2Proof.Machine
end

