-- ==== Sys2Proof/Machine/RegAccess.lean ====
section
/-! DEFINITION. Register access operations (40_register_access.md R111 to R119): GETB, SETB, GETW, SETW,
GETBUF, SETBUF, GETF, SETF, IDENT. -/

namespace Sys2Proof.Machine

/-- GETB reg (R111). -/
def execGetb (reg : Byte) (s : State) : Outcome :=
  complete (do
    let v ← getByte reg
    update (setX 0 (v.setWidth 64))) s

/-- SETB reg, val (R112): the write is unconditional. -/
def execSetb (reg val : Byte) (s : State) : Outcome := complete (setByte reg val) s

/-- GETW reg (R113). -/
def execGetw (reg : Byte) (s : State) : Outcome :=
  complete (do
    let v ← getWord reg
    update (setX 0 (v.setWidth 64))) s

/-- SETW reg, imm16 (R114). -/
def execSetw (reg : Byte) (val : U16) (s : State) : Outcome := complete (setWord reg val) s

/-- GETBUF reg, len (R115): fills `XFER[0 .. len-1]`. -/
def execGetbuf (reg len : Byte) (s : State) : Outcome :=
  complete (do
    let bytes ← getBuf reg len.toNat
    update fun s => { s with buf := { s.buf with xfer := overlay s.buf.xfer 0 bytes } }) s

/-- `XFER[0], …, XFER[len-1]` (R116). -/
def xferBytes (s : State) (len : Nat) : List Byte := (List.range len).map fun i => s.buf.xfer.getD i 0

/-- SETBUF reg, len (R116). -/
def execSetbuf (reg len : Byte) (s : State) : Outcome :=
  complete (do
    let bytes ← look (xferBytes · len.toNat)
    setBuf reg bytes) s

/-- GETF reg, mask (R117): masked and not shifted down. -/
def execGetf (reg mask : Byte) (s : State) : Outcome :=
  complete (do
    let v ← getField reg mask
    update (setX 0 (v.setWidth 64))) s

/-- SETF reg, val, mask (R118): `x[0]` is 1 if a write was made, else 0. -/
def execSetf (reg val mask : Byte) (s : State) : Outcome :=
  complete (do
    let wrote ← setField reg val mask
    update (setX 0 (flagWord wrote))) s

/-- Whether a (chip id, revision id) pair matches a list entry (R119). -/
def idMatches (id rev : Byte) (e : IdEntry) : Bool :=
  id &&& e.idMask == e.id && rev &&& e.revMask == e.rev

/-- IDENT (R119): two reads, then the first match of `DEVICE_ID_LIST`. On no match `DC.variant` becomes
NONE before `UnknownDevice` is raised (93_implementation_defined.md U22). -/
def execIdent (s : State) : Outcome :=
  complete (do
    let c ← look (·.cfg)
    let id ← getByte c.reg.id
    let rev ← getByte c.reg.revid
    let found := c.bus.deviceIds.findIdx? (idMatches id rev)
    update fun s => { s with dc := { s.dc with variant := found } }
    match found with
    | some k => update (setX 0 (BitVec.ofNat 64 k))
    | none => raise .unknownDevice (id.setWidth 16)) s

end Sys2Proof.Machine
end

