-- ==== Sys2Proof/Machine/Dispatch.lean ====
section
/-! DEFINITION. The meaning of every operation of FLKOPS-1 (30_encoding.md R93): one arm per constructor. -/

namespace Sys2Proof.Machine

def exec (i : Instr) (s : State) : Host.Outcome State Fault Refusal :=
  match i with
  | .nop => Sys2Proof.Machine.execNop s
  | .xli d imm => Sys2Proof.Machine.execXli d imm s
  | .xlih d imm => Sys2Proof.Machine.execXlih d imm s
  | .xmov d src => Sys2Proof.Machine.execXmov d src s
  | .brd sel idx => Sys2Proof.Machine.execBrd sel idx s
  | .bwr sel idx => Sys2Proof.Machine.execBwr sel idx s
  | .getb reg => Sys2Proof.Machine.execGetb reg s
  | .setb reg val => Sys2Proof.Machine.execSetb reg val s
  | .getw reg => Sys2Proof.Machine.execGetw reg s
  | .setw reg val => Sys2Proof.Machine.execSetw reg val s
  | .getbuf reg len => Sys2Proof.Machine.execGetbuf reg len s
  | .setbuf reg len => Sys2Proof.Machine.execSetbuf reg len s
  | .getf reg mask => Sys2Proof.Machine.execGetf reg mask s
  | .setf reg val mask => Sys2Proof.Machine.execSetf reg val mask s
  | .ident => Sys2Proof.Machine.execIdent s
  | .isqrt => Sys2Proof.Machine.execIsqrt s
  | .wingen => Sys2Proof.Machine.execWingen s
  | .window => Sys2Proof.Machine.execWindow s
  | .fft n => Sys2Proof.Machine.execFft n s
  | .mag n => Sys2Proof.Machine.execMag n s
  | .drain => Sys2Proof.Machine.execDrain s
  | .deint => Sys2Proof.Machine.execDeint s
  | .pmeta => Sys2Proof.Machine.execPmeta s
  | .fifoclr => Sys2Proof.Machine.execFifoclr s
  | .favg => Sys2Proof.Machine.execFavg s
  | .gnorm => Sys2Proof.Machine.execGnorm s
  | .thresh => Sys2Proof.Machine.execThresh s
  | .peak => Sys2Proof.Machine.execPeak s
  | .fdecide => Sys2Proof.Machine.execFdecide s
  | .b2mhz => Sys2Proof.Machine.execB2mhz s
  | .mhz2b => Sys2Proof.Machine.execMhz2b s
  | .flkest => Sys2Proof.Machine.execFlkest s
  | .l2c => Sys2Proof.Machine.execL2c s
  | .c2l => Sys2Proof.Machine.execC2l s
  | .agcen on => Sys2Proof.Machine.execAgcen on s
  | .agcsat on => Sys2Proof.Machine.execAgcsat on s
  | .agcpred on => Sys2Proof.Machine.execAgcpred on s
  | .agcwin size => Sys2Proof.Machine.execAgcwin size s
  | .agcmaxg ch code => Sys2Proof.Machine.execAgcmaxg ch code s
  | .alssmp => Sys2Proof.Machine.execAlssmp s
  | .alscalc => Sys2Proof.Machine.execAlscalc s
  | .alseq => Sys2Proof.Machine.execAlseq s
  | .dispatch => Sys2Proof.Machine.execDispatch s
  | .featen feat trig => Sys2Proof.Machine.execFeaten feat trig s
  | .featdis feat => Sys2Proof.Machine.execFeatdis feat s
  | .setthr thr => Sys2Proof.Machine.execSetthr thr s
  | .getals => Sys2Proof.Machine.execGetals s
  | .getflk => Sys2Proof.Machine.execGetflk s

end Sys2Proof.Machine
end

