-- ==== Sys2Proof/Machine/Sequencer.lean ====
section
/-! DEFINITION. What SEQ does with HOST's next act (00_scope.md R5): a command is decoded and runs as one
whole operation; the block fetches nothing and stores no program (10_state.md R22, 20_memory.md R75). -/

namespace Sys2Proof.Machine

/-- An accepted command (60_exceptions.md R255, R270): the operation it decodes to, or the refusal
`IllegalCommand` with info `cw[31:16]`, which changes nothing but the bookkeeping (R261). -/
def runCommand (cw : U32) (s : State) : Outcome :=
  match decode cw with
  | .ok i => exec i s
  | .error _ => complete (raise .illegalCommand (cw.extractLsb' 16 16)) s

/-- The refusals of the commands that arrive while an operation runs (60_exceptions.md R266). They touch
nothing the operation reads or writes besides its own sticky bit, so they are recorded before it ends. -/
def refuseAll : List U32 → State → State
  | [], s => s
  | _ :: rest, s => refuseAll rest (refuseBusy s)

/-- The answer of a block that exists and has a well-formed configuration, else the refusal by name
(00_scope.md R7, 70_reset_and_hazards.md R286, R289). -/
def ifAttached (s : State) (answer : Outcome) : Outcome :=
  if s.attached then
    if configOk s.cfg then answer else .refused .illFormedConfig
  else .refused .notAttached

/-- Attach (70_reset_and_hazards.md R286): a new block on the same bus, which it does not touch; an
ill-formed configuration is refused (00_scope.md R7). That an attach on a block still attached replaces the
live instance, as a hard reset, is the model's choice (DESIGN CHOICE, log 28). -/
def attachBlock (c : Config) (s : State) : Outcome :=
  if configOk c then .next (State.attach c s.bus s.inbox) else .refused .illFormedConfig

/-- Detach (70_reset_and_hazards.md R289): the block's state ceases to exist, which the model shows as the
reset state marked not attached (log 12). -/
def detachBlock (s : State) : State := { State.attach s.cfg s.bus s.inbox with attached := false }

/-- One act of HOST, or of the device between commands. -/
def hostAct (act : HostAct) (s : State) : Outcome :=
  match act with
  | .command cw during => ifAttached s (runCommand cw (refuseAll during s))
  | .writeX r v => ifAttached s (.next (setX r.val v s))
  | .attach c => attachBlock c s
  | .detach => ifAttached s (.next (detachBlock s))
  | .device act => .next { s with bus := { s.bus with dev := deviceAct s.bus.dev act } }

/-- Take HOST's next act; with none SEQ stays idle. -/
def takeAct (s : State) : Outcome :=
  match s.inbox with
  | [] => .next s
  | act :: rest => hostAct act { s with inbox := rest }

/-- HOST issues the command word whose low `nbits` bits are `w` next. -/
def issueCommand (nbits w : Nat) (s : State) : State :=
  { s with inbox := .command (BitVec.ofNat 32 (w % 2 ^ nbits)) [] :: s.inbox }

end Sys2Proof.Machine
end

