-- ==== Sys2Proof/Machine/Step.lean ====
section
/-! DEFINITION. One step of the machine: HOST's next act, a command being one whole operation
(00_scope.md R5, 92_eei_decisions.md D1). -/

namespace Sys2Proof.Machine

/-- One step. -/
def step (s : State) : Host.Outcome State Fault Refusal := takeAct s

/-- `s` with the command whose low `nbits` bits are `w` as the next one HOST issues (log 3). -/
def State.withFetchWord (s : State) (nbits w : Nat) : State := issueCommand nbits w s

end Sys2Proof.Machine
end

