-- ==== Sys2Proof/Safety.lean ====
section
/-! DEFINITION. What the statements call a legal state: the ranges the spec gives the block's state, kept by
every step from every state that has them; and a run that does not stop. -/

namespace Sys2Proof.Machine

/-- Every buffer has the length of its capacity (10_state.md R33 to R38). -/
structure BuffersSized (c : Config) (b : Buffers) : Prop where
  ring : b.ring.length = c.flk.ringMax
  clear : b.clear.length = c.flk.fftMax
  wide : b.wide.length = c.flk.fftMax
  re : b.re.length = c.flk.fftMax
  im : b.im.length = c.flk.fftMax
  mag : b.mag.length = c.flk.fftMax
  win : b.win.length = winN
  xfer : b.xfer.length = c.bus.xferMax

/-- The ranges of `DC`: at rest the phase is idle (46_dispatch.md R215), `lastErr` is a status that an
operation can end with (60_exceptions.md R256), no bit of `faults` but 1 to 8 is set (10_state.md R28), and
the variant indexes `DEVICE_ID_LIST` (R24). -/
structure DeviceContextLegal (c : Config) (dc : DeviceContext) : Prop where
  phase : dc.phase = .idle
  lastErr : dc.lastErr.toNat ≤ 8 ∧ dc.lastErr ≠ statusOf .busy
  faults : dc.faults &&& 0xFE01 = 0
  variant : ∀ k, dc.variant = some k → k < c.bus.deviceIds.length

/-- The ranges of `AGC` (10_state.md R25, 44_agc.md R190). -/
structure AgcLegal (c : Config) (a : Agc) : Prop where
  winSize : a.winSize &&& ~~~c.mask.agcWin = 0
  maxGainC : a.maxGainC.toNat ≤ maxGainCode
  maxGainW : a.maxGainW.toNat ≤ maxGainCode

/-- The ranges of `FLK` (10_state.md R29 to R31): what only (re-)initialisation sets is the configuration's,
the FIFO threshold is between 1 and `RING_MAX`, one gain code for each modulator, an average is at most the
largest sample, the peak bin is one of the scanned ones (or 0 before the first search). -/
structure FlickerLegal (c : Config) (f : Flicker) : Prop where
  sampleCount : f.sampleCount = c.flk.sampleCountInit
  metaEnd : f.metaEnd = c.flk.metaEndInit
  metaGain : f.metaGain = c.flk.metaGainInit
  metaCsum : f.metaCsum = c.flk.metaCsumInit
  threshold : 1 ≤ f.fifoThreshold.toNat ∧ f.fifoThreshold.toNat ≤ c.flk.ringMax
  gain : f.gain.length = c.flk.nMod
  avgC : f.avgC.toNat ≤ 65535
  avgW : f.avgW.toNat ≤ 65535
  peakBin : f.peakBin = 0 ∨ (binLo ≤ f.peakBin.toNat ∧ f.peakBin.toNat ≤ binHi)

/-- The ring never holds more than the FIFO threshold, and a ring marked ready holds a whole frame
(42_fifo_parser.md R152). -/
structure RingLegal (f : Flicker) (b : Buffers) : Prop where
  len : b.ringLen.toNat ≤ f.fifoThreshold.toNat
  ready : f.dataReady = true → frameBytes f ≤ b.ringLen.toNat

/-- The ranges of `ALS` (10_state.md R32, 45_als.md R203): the constants are the configuration's, the ratio is
at most 15, a corrected count is at most the raw one. -/
structure AlsLegal (c : Config) (a : Als) : Prop where
  coefA : a.coefA = c.als.coefA
  coefB : a.coefB = c.als.coefB
  itime : a.itime = c.als.itime
  cwRatio : a.cwRatio.toNat ≤ cwRatioMax
  clearCorr : a.clearCorr.toNat ≤ a.rawClear.toNat
  wideCorr : a.wideCorr.toNat ≤ a.rawWide.toNat

/-- The register memory of the reference device is in its canonical form. -/
def deviceLegal : Device → Prop
  | .oracle _ _ => True
  | .sim d => memWf d.reg = true

/-- A legal state: a well-formed configuration and every group of state in its ranges. -/
structure State.Legal (s : State) : Prop where
  cfg : configOk s.cfg = true
  dc : DeviceContextLegal s.cfg s.dc
  agc : AgcLegal s.cfg s.agc
  flk : FlickerLegal s.cfg s.flk
  als : AlsLegal s.cfg s.als
  buf : BuffersSized s.cfg s.buf
  ring : RingLegal s.flk s.buf
  dev : deviceLegal s.bus.dev

/-- A state from which one step neither faults nor refuses: the machine goes on. -/
def goesOn (s : State) : Prop := ∃ t, step s = .next t

/-- A state whose configuration sets a finite `DISPATCH_CAP` (46_dispatch.md R216). -/
def capFinite (s : State) : Prop := ∃ n, s.cfg.dispatchCap = .passes n

/-! ### The terms of the statements -/

/-- `s` after an operation that completed (60_exceptions.md R255): record (0, 0), `lastErr` 0, `pc + 1`. -/
def completed (s : State) : State :=
  { s with pc := s.pc + 1, dc := { s.dc with lastErr := 0 }, records := ⟨0, 0⟩ :: s.records }

/-- `s` after an operation that ended with a fault (60_exceptions.md R255): the record, `lastErr`, the sticky
bit of the status, `pc + 1`. -/
def faulted (status : Byte) (info : U16) (s : State) : State :=
  { s with
    pc := s.pc + 1
    dc := { s.dc with lastErr := status, faults := s.dc.faults ||| (1 <<< status.toNat) }
    records := ⟨status, info⟩ :: s.records }

/-- Reading `n` bytes at register `reg` succeeds with these bytes and leaves the bus so (20_memory.md R62,
R64). -/
def readOk (c : Config) (b : Bus) (reg : Byte) (n : Nat) (bytes : List Byte) (b' : Bus) : Prop :=
  busRead c b (regAddr c reg.toNat) n = (some bytes, b')

/-- Reading `n` bytes at register `reg` fails and leaves the bus so. -/
def readFails (c : Config) (b : Bus) (reg : Byte) (n : Nat) (b' : Bus) : Prop :=
  busRead c b (regAddr c reg.toNat) n = (none, b')

/-- Writing these bytes at register `reg` succeeds and leaves the bus so. -/
def writeOk (c : Config) (b : Bus) (reg : Byte) (bytes : List Byte) (b' : Bus) : Prop :=
  busWrite c b (regAddr c reg.toNat) bytes = (true, b')

/-- Writing these bytes at register `reg` fails and leaves the bus so. -/
def writeFails (c : Config) (b : Bus) (reg : Byte) (bytes : List Byte) (b' : Bus) : Prop :=
  busWrite c b (regAddr c reg.toNat) bytes = (false, b')

/-- The shadows after the byte `v` was read from `reg` (40_register_access.md R121). -/
def noteRead (c : Config) (reg v : Byte) (dc : DeviceContext) : DeviceContext :=
  { dc with
    shEnable := if reg = c.reg.enable then v else dc.shEnable
    shIntenab := if reg = c.reg.intenab then v else dc.shIntenab
    shStatus := if reg = c.reg.status then v else dc.shStatus }

/-- The shadows after the byte `v` was written to `reg` (40_register_access.md R121; log 27 where `R_STATUS` shares
the id of `R_ENABLE` or `R_INTENAB`). -/
def noteWrite (c : Config) (reg v : Byte) (dc : DeviceContext) : DeviceContext :=
  { dc with
    shEnable := if reg = c.reg.enable then v else dc.shEnable
    shIntenab := if reg = c.reg.intenab then v else dc.shIntenab }

/-- The error counter after a failed transaction (20_memory.md R63). -/
def countFailure (dc : DeviceContext) : DeviceContext := { dc with errcnt := dc.errcnt + 1 }

/-- The byte a setField leaves in the register: masked bits cleared, new bits in (40_register_access.md R118). -/
def merged (orig : Byte) (w : FieldWrite) : Byte := (orig &&& ~~~w.mask) ||| w.val

/-- A setField that succeeds: what it reads, whether it writes, and the bus and `DC` after it
(40_register_access.md R118). -/
def fieldDone (c : Config) (w : FieldWrite) (b : Bus) (dc : DeviceContext) (b' : Bus) (dc' : DeviceContext)
    (wrote : Bool) : Prop :=
  ∃ orig b1, readOk c b w.reg 1 [orig] b1 ∧
    ((merged orig w = orig ∧ wrote = false ∧ b' = b1 ∧ dc' = noteRead c w.reg orig dc) ∨
     (merged orig w ≠ orig ∧ wrote = true ∧ writeOk c b1 w.reg [merged orig w] b' ∧
      dc' = noteWrite c w.reg (merged orig w) (noteRead c w.reg orig dc)))

/-- A setField of which a transaction fails, and the bus and `DC` after it (40_register_access.md R120). -/
def fieldFails (c : Config) (w : FieldWrite) (b : Bus) (dc : DeviceContext) (b' : Bus) (dc' : DeviceContext) :
    Prop :=
  (readFails c b w.reg 1 b' ∧ dc' = countFailure dc) ∨
  ∃ orig b1, readOk c b w.reg 1 [orig] b1 ∧ merged orig w ≠ orig ∧
    writeFails c b1 w.reg [merged orig w] b' ∧ dc' = countFailure (noteRead c w.reg orig dc)

/-- A list of setFields that all succeed, in list order (46_dispatch.md R217). -/
def burstDone (c : Config) : List FieldWrite → Bus → DeviceContext → Bus → DeviceContext → Prop
  | [], b, dc, b', dc' => b' = b ∧ dc' = dc
  | w :: ws, b, dc, b', dc' =>
    ∃ b1 dc1 wrote, fieldDone c w b dc b1 dc1 wrote ∧ burstDone c ws b1 dc1 b' dc'

/-- A list of setFields of which the one on `reg` fails, those before it done (46_dispatch.md R217). -/
def burstFails (c : Config) (ws : List FieldWrite) (b : Bus) (dc : DeviceContext) (reg : Byte) (b' : Bus)
    (dc' : DeviceContext) : Prop :=
  ∃ done w rest b1 dc1, ws = done ++ w :: rest ∧ w.reg = reg ∧ burstDone c done b dc b1 dc1 ∧
    fieldFails c w b1 dc1 b' dc'

/-- Two ids a word operation may use: both exist, at consecutive addresses (40_register_access.md R113). -/
def wordIds (c : Config) (reg : Byte) : Prop :=
  reg.toNat + 1 < regMax c ∧ (regAddr c (reg.toNat + 1)).toNat = (regAddr c reg.toNat).toNat + 1

/-- The reference device answers, and no transaction is scripted to fail (20_memory.md R78). -/
def simAnswers (b : Bus) (d : SimDev) : Prop := b.dev = .sim d ∧ d.outcomes = []

/-- The IR estimate from counts `c`, `w` (45_als.md R203 (2)). -/
def irEstimate (satf : Bool) (c w : Nat) : Nat :=
  if satf = true ∨ w < c then 0 else ((8 * (w : Int) - 10 * c) / 5).toNat

/-- CWRatio from counts `c`, `w` (45_als.md R203 (3)). -/
def clearWideRatio (c w : Nat) : Nat := if w = 0 then 15 else min 15 (c / w)

/-- The lux from counts `c`, `w` (45_als.md R203 (4)). -/
def luxEstimate (a b : Int) (c w : Nat) : Int :=
  (c * (if clearWideRatio c w = 0 then Int.tdiv (a * c) w + b else a * clearWideRatio c w + b)) / 1024

/-- `s` after a sample of counts `c`, `w` was published (45_als.md R203 (5)). -/
def published (c w : Nat) (s : State) : State :=
  let ir := irEstimate s.flk.satf c w
  let lux := BitVec.ofInt 64 (luxEstimate s.als.coefA.toInt s.als.coefB.toInt c w)
  { s with
    dc := { s.dc with update := s.dc.update ||| 1 }
    als := { s.als with
      rawClear := BitVec.ofNat 32 c
      rawWide := BitVec.ofNat 32 w
      ir := BitVec.ofNat 32 ir
      cwRatio := BitVec.ofNat 8 (clearWideRatio c w)
      clearCorr := BitVec.ofNat 32 (c - ir)
      wideCorr := BitVec.ofNat 32 (w - ir)
      lux := lux
      luxAvg := luxAverageOf s.cfg s.als.luxAvg lux } }

/-! ### An operation called by another -/

/-- What the caller sees of the state `u` in which an operation ended that it called in `s`: "Sub-operations
called as procedures make their state changes and write no operand register" (46_dispatch.md), and only the
outermost operation ends (00_scope.md R11, R12). -/
def asCalled (s u : State) : State :=
  { u with
    x := s.x
    pc := s.pc
    records := s.records
    dc := { u.dc with lastErr := s.dc.lastErr, faults := s.dc.faults } }

/-- Operation `i`, called in `s`, ends with `r` and leaves `t`; `result` is what it would put in `x[0]`. -/
def calls (i : Instr) (s : State) (r : Completion) (result : U64) (t : State) : Prop :=
  ∃ u, exec i s = .next u ∧ u.records = r :: s.records ∧ u.x[0] = result ∧ t = asCalled s u

/-- Operation `i`, called in `s`, returns `result` and leaves `t`. -/
def callReturns (i : Instr) (s : State) (result : U64) (t : State) : Prop := calls i s ⟨0, 0⟩ result t

/-- Operation `i`, called in `s`, raises a fault and leaves `t`. -/
def callRaises (i : Instr) (s : State) (status : Byte) (info : U16) (t : State) : Prop :=
  status ≠ 0 ∧ ∃ result, calls i s ⟨status, info⟩ result t

/-- Operations called one after the other, all of which return. -/
def stepsReturn : List Instr → State → State → Prop
  | [], s, t => t = s
  | i :: rest, s, t => ∃ result u, callReturns i s result u ∧ stepsReturn rest u t

/-- Operations called one after the other, of which one raises; those before it returned. -/
def stepsRaise (steps : List Instr) (s : State) (status : Byte) (info : U16) (t : State) : Prop :=
  ∃ before i after u, steps = before ++ i :: after ∧ stepsReturn before s u ∧ callRaises i u status info t

/-- The analysis of a frame of n samples, in the order of 43_flicker.md R172. -/
def analysisSteps (n : U16) : List Instr :=
  [.deint, .pmeta, .favg, .gnorm, .window, .fft n, .mag n, .thresh, .peak, .fdecide]

/-! ### A pass of DISPATCH (46_dispatch.md R216) -/

/-- A read of the status register returns `v`. -/
def statusRead (s : State) (v : Byte) (t : State) : Prop :=
  callReturns (.getb s.cfg.reg.status) s (v.setWidth 64) t

/-- The status bit of the flicker feature is set and the feature is on. -/
def flickerDue (st : Byte) (s : State) : Prop := st &&& s.cfg.mask.stFlk ≠ 0 ∧ s.dc.mode.getLsbD 1 = true

/-- The status bit of the ALS feature is set and the feature is on. -/
def alsDue (st : Byte) (s : State) : Prop := st &&& s.cfg.mask.stAls ≠ 0 ∧ s.dc.mode.getLsbD 0 = true

/-- The flicker branch: FLKEST; with result 1 also ALSEQ, and both update flags are raised. -/
def flickerServed (st : Byte) (s t : State) : Prop :=
  (¬ flickerDue st s ∧ t = s) ∨ (flickerDue st s ∧ callReturns .flkest s 0 t) ∨
  (flickerDue st s ∧ ∃ u lux v, callReturns .flkest s 1 u ∧ callReturns .alseq u lux v ∧
    t = { v with dc := { v.dc with update := v.dc.update ||| 3 } })

/-- The flicker branch, of which FLKEST or ALSEQ raises. -/
def flickerRaises (st : Byte) (s : State) (status : Byte) (info : U16) (t : State) : Prop :=
  flickerDue st s ∧ (callRaises .flkest s status info t ∨
    ∃ u, callReturns .flkest s 1 u ∧ callRaises .alseq u status info t)

/-- The ALS branch: ALSSMP. -/
def alsServed (st : Byte) (s t : State) : Prop :=
  (¬ alsDue st s ∧ t = s) ∨ (alsDue st s ∧ ∃ lux, callReturns .alssmp s lux t)

/-- The write-back of a status that is not 0. -/
def statusWritten (st : Byte) (s t : State) : Prop :=
  (st = 0 ∧ t = s) ∨ (st ≠ 0 ∧ ∃ result, callReturns (.setb s.cfg.reg.status st) s result t)

/-- A pass that ends with `st2` re-read: (1) to (4) in their order. -/
def passReturns (s : State) (st2 : Byte) (t : State) : Prop :=
  ∃ st s1 s2 s3 s4, statusRead s st s1 ∧ flickerServed st s1 s2 ∧ alsServed st s2 s3 ∧ statusWritten st s3 s4 ∧
    statusRead s4 st2 t

/-- A pass of which a step raises; what follows the step does not happen. -/
def passRaises (s : State) (status : Byte) (info : U16) (t : State) : Prop :=
  callRaises (.getb s.cfg.reg.status) s status info t ∨
  ∃ st s1, statusRead s st s1 ∧ (flickerRaises st s1 status info t ∨
  ∃ s2, flickerServed st s1 s2 ∧ ((alsDue st s2 ∧ callRaises .alssmp s2 status info t) ∨
  ∃ s3, alsServed st s2 s3 ∧ ((st ≠ 0 ∧ callRaises (.setb s3.cfg.reg.status st) s3 status info t) ∨
  ∃ s4, statusWritten st s3 s4 ∧ callRaises (.getb s4.cfg.reg.status) s4 status info t)))

/-- `k` passes, after each of which the status still read non-zero. -/
def unfinishedPasses : Nat → State → State → Prop
  | 0, s, t => t = s
  | k + 1, s, t => ∃ st2 u, passReturns s st2 u ∧ st2 ≠ 0 ∧ unfinishedPasses k u t

/-! ### Data transactions of DRAIN and stages of FFT -/

/-- The data transactions of DRAIN with `pending` bytes to fetch, each of as many bytes as are left but at most
`BUS_XFER_MAX`: those made so far returned `chunks` (42_fifo_parser.md R152). -/
def chunksRead (c : Config) : Nat → List (List Byte) → Bus → Bus → Prop
  | _, [], b, b' => b' = b
  | pending, bytes :: rest, b, b' =>
    0 < pending ∧ ∃ b1, readOk c b c.reg.fifoData (min pending c.bus.xferMax) bytes b1 ∧
      chunksRead c (pending - min pending c.bus.xferMax) rest b1 b'

/-- The running twiddle of the stage of block length `len` at index `j`: 1.0 first, then each time the Q16 product
with the stage's step, shifted right by 16 (41_dsp_kernels.md R135). -/
def runningTwiddle (c : Config) (len : Nat) : Nat → Int × Int
  | 0 => (65536, 0)
  | j + 1 =>
    let w := runningTwiddle c len j
    let wpr := (c.cosTab.getD (512 / len) 0).toInt
    let wpi := -(c.sinTab.getD (512 / len) 0).toInt
    ((w.1 * wpr - w.2 * wpi) / 65536, (w.1 * wpi + w.2 * wpr) / 65536)

/-- The stage of block length `len` of an n-point transform takes the arrays `re`, `im` to `re'`, `im'`: in every
block, elements `k` and `p = k + len/2` become `u + t` and `u - t` (41_dsp_kernels.md R135). -/
def stageTakes (c : Config) (n len : Nat) (re im re' im' : List U64) : Prop :=
  ∀ block < n / len, ∀ j < len / 2,
    let v (l : List U64) (i : Nat) : Int := (l.getD i 0).toInt
    let w := runningTwiddle c len j
    let k := block * len + j
    let p := k + len / 2
    let tr := (w.1 * v re p - w.2 * v im p) / 65536
    let ti := (w.1 * v im p + w.2 * v re p) / 65536
    v re' k = v re k + tr ∧ v im' k = v im k + ti ∧ v re' p = v re k - tr ∧ v im' p = v im k - ti

/-- The exchanges of the bit-reversal permutation of the first `2^m` elements, for the indices from `i` on,
`count` of them (41_dsp_kernels.md R132). -/
def exchanges (m : Nat) : Nat → Nat → List U64 → List U64
  | 0, _, l => l
  | count + 1, i, l =>
    let j := bitrev i m
    exchanges m count (i + 1) (if i < j then (l.set i (l.getD j 0)).set j (l.getD i 0) else l)

end Sys2Proof.Machine
end

