-- ==== Sys2Proof/WellFormed.lean ====
section
/-! DEFINITION. The checks on an instruction's operands that need no state and no configuration
(the operand ranges of 60_exceptions.md R262). 30_encoding.md R94: such an operand value is no decode
error; the word decodes and the operation raises `PreconditionViolation` (log 17). -/

namespace Sys2Proof

/-- The operand values no rule excludes in every configuration: register numbers below 8, buffer
selectors that exist (and are writable, for BWR), lengths, sizes and thresholds other than 0, flags,
channels, features and triggers of 0 or 1, gain codes up to 13, and for SETF a value inside its mask. -/
def Instr.wf : Instr → Bool
  | .xli d _ => d.toNat < 8
  | .xlih d _ => d.toNat < 8
  | .xmov d src => d.toNat < 8 && src.toNat < 8
  | .brd sel _ => sel.toNat ≤ 11
  | .bwr sel _ => sel.toNat ≤ 4 || sel.toNat == 7
  | .getbuf _ len => len != 0
  | .setbuf _ len => len != 0
  | .setf _ val mask => val &&& ~~~mask == 0
  | .fft n => n != 0
  | .mag n => n != 0
  | .agcen on => on.toNat ≤ 1
  | .agcsat on => on.toNat ≤ 1
  | .agcpred on => on.toNat ≤ 1
  | .agcmaxg ch code => ch.toNat ≤ 1 && code.toNat ≤ 13
  | .featen feat trig => feat.toNat ≤ 1 && trig.toNat ≤ 1
  | .featdis feat => feat.toNat ≤ 1
  | .setthr thr => thr != 0
  | .nop | .getb _ | .setb _ _ | .getw _ | .setw _ _ | .getf _ _ | .ident | .isqrt | .wingen
  | .window | .drain | .deint | .pmeta | .fifoclr | .favg | .gnorm | .thresh | .peak | .fdecide
  | .b2mhz | .mhz2b | .flkest | .l2c | .c2l | .agcwin _ | .alssmp | .alscalc | .alseq | .dispatch
  | .getals | .getflk => true

end Sys2Proof
end

