-- ==== Sys2Proof/Certificates/Slice0/Obligations.lean ====
section
/-! DEFINITION. The statements for the provers. `completed` and `faulted` are the two endings of an operation
(60_exceptions.md R255); a next state written out as one record says that every field it does not name is
unchanged, memory and buffers included. -/

open Sys2Proof Sys2Proof.Machine

/-! ### Encoding (30_encoding.md) -/

/-- 30_encoding.md R90 to R93: decoding the word of an operation gives that operation back, every operand
at every value. -/
def Obligations.DecodeOfEncode : Prop := ∀ i : Instr, decode (encode i) = .ok i

/-- 30_encoding.md R90, R94: a word that decodes is the word of the operation it decodes to, so no bit of a
legal word is ignored. -/
def Obligations.EncodeOfDecode : Prop := ∀ (w : U32) (i : Instr), decode w = .ok i → encode i = w

/-- 30_encoding.md R91, R93: exactly the words that match a row of the opcode table are commands. -/
def Obligations.LegalWordsMatchTable : Prop :=
  ∀ w : U32, (∃ i, decode w = .ok i) ↔ ∃ row ∈ opcodeRows, w &&& row.2 = row.1

/-- 30_encoding.md R93, the words printed with the rules: they stand for the operations named there. -/
def Obligations.PrintedWordsDecode : Prop :=
  decode 0x01014000 = .ok (.xli 1 0x4000) ∧ decode 0x03010000 = .ok (.xmov 1 0) ∧
  decode 0x0404000A = .ok (.brd 4 10) ∧ decode 0x05020003 = .ok (.bwr 2 3) ∧
  decode 0x10130000 = .ok (.getb 19) ∧ decode 0x13040200 = .ok (.setw 4 0x0200) ∧
  decode 0x140A0400 = .ok (.getbuf 10 4) ∧ decode 0x1609F000 = .ok (.getf 9 0xF0) ∧
  decode 0x17100202 = .ok (.setf 16 2 2) ∧ decode 0x33000000 = .ok .fifoclr ∧
  decode 0x56010900 = .ok (.agcmaxg 1 9) ∧ decode 0x71010000 = .ok (.featen 1 0) ∧
  decode 0x73000204 = .ok (.setthr 516)

/-! ### The machine: commands, endings, reset -/

/-- 00_scope.md R5, 60_exceptions.md R270: when HOST's next act is a command that decodes, the step is that
operation. That the commands that arrive meanwhile are refused before the operation, not during it, is the
model's choice (log 4, unsafe for the order of the records). -/
def Obligations.StepRunsDecodedInstruction : Prop :=
  ∀ (s : State) (cw : U32) (during : List U32) (rest : List HostAct) (i : Instr),
    s.inbox = .command cw during :: rest → s.attached = true → configOk s.cfg = true → decode cw = .ok i →
    step s = exec i (refuseAll during { s with inbox := rest })

/-- 60_exceptions.md R261: a word that is no operation is refused with status 2 and info `cw[31:16]`;
nothing else changes. -/
def Obligations.IllegalCommandIsRefused : Prop :=
  ∀ (s : State) (cw : U32) (rest : List HostAct),
    s.inbox = .command cw [] :: rest → s.attached = true → configOk s.cfg = true →
    (∀ row ∈ opcodeRows, cw &&& row.2 ≠ row.1) →
    step s = .next (faulted 2 (cw.extractLsb' 16 16) { s with inbox := rest })

/-- 60_exceptions.md R266: commands that arrive while an operation runs each get the record (7, 0) and set
bit 7 of `DC.faults`; nothing else changes. That these records precede the operation's own is the model's
choice (log 4). -/
def Obligations.BusyCommandsAreRefused : Prop :=
  ∀ (s : State) (during : List U32),
    refuseAll during s = { s with
      dc := { s.dc with faults := if during = [] then s.dc.faults else s.dc.faults ||| 0x80 }
      records := List.replicate during.length ⟨7, 0⟩ ++ s.records }

/-- 10_state.md R46, 70_reset_and_hazards.md R286: attaching a block with a well-formed configuration gives
every piece of its state the reset value and makes no bus transaction. That the bus and HOST's further
acts go on unchanged, and the empty list of records, are the model's (log 11); that it does so on a block still
attached, too, replacing the live instance, is the model's choice (log 28). -/
def Obligations.AttachResetsTheBlock : Prop :=
  ∀ (s : State) (c : Config) (rest : List HostAct),
    s.inbox = .attach c :: rest → configOk c = true →
    ∃ t, step s = .next t ∧ t.cfg = c ∧ t.attached = true ∧ t.bus = s.bus ∧ t.inbox = rest ∧ t.records = [] ∧
      (∀ r : Fin 8, t.x[r] = 0) ∧ t.pc = 0 ∧
      t.dc = { phase := .idle, mode := 0, trig := .int, variant := none,
               shEnable := regReset c c.reg.enable.toNat, shIntenab := regReset c c.reg.intenab.toNat,
               shStatus := regReset c c.reg.status.toNat, update := 0, errcnt := 0, lastErr := 0, faults := 0 } ∧
      t.agc = { enabled := false, satAdaptive := false, predictive := false, winSize := 0, maxGainC := 0,
                maxGainW := 0 } ∧
      t.flk = { sampleCount := c.flk.sampleCountInit, fifoThreshold := c.flk.fifoThresholdInit, freq := 0,
                dataReady := false, gain := c.flk.gainInit, metaEnd := c.flk.metaEndInit,
                metaGain := c.flk.metaGainInit, metaCsum := c.flk.metaCsumInit, avgC := 0, avgW := 0, normC := 0,
                normW := 0, thresh := 0, peakBin := 0, peakMag := 0, checksum := 0, endMarker := 0,
                satf := false } ∧
      t.als = { state := .init, rawClear := 0, rawWide := 0, clearCorr := 0, wideCorr := 0, ir := 0, cwRatio := 0,
                lux := 0, luxAvg := 0, gainC := c.als.gainInitC, gainW := c.als.gainInitW, coefA := c.als.coefA,
                coefB := c.als.coefB, itime := c.als.itime } ∧
      BuffersSized c t.buf ∧ t.buf.ringLen = 0 ∧
      (∀ v ∈ t.buf.ring ++ t.buf.xfer, v = 0) ∧ (∀ v ∈ t.buf.clear ++ t.buf.wide, v = 0) ∧
      (∀ v ∈ t.buf.re ++ t.buf.im ++ t.buf.mag, v = 0) ∧ (∀ v ∈ t.buf.win, v = 0)

/-- 00_scope.md R7, 70_reset_and_hazards.md R286, R289: an ill-formed configuration is refused at attach and
at every command; a detached block accepts no command; detaching makes no bus transaction (what a
detached block's state is, is the model's choice, log 12). -/
def Obligations.AbsentOrIllFormedBlockRefuses : Prop :=
  (∀ (s : State) (c : Config) (rest : List HostAct), s.inbox = .attach c :: rest → configOk c = false →
    step s = .refused .illFormedConfig) ∧
  (∀ (s : State) (cw : U32) (during : List U32) (rest : List HostAct), s.inbox = .command cw during :: rest →
    s.attached = true → configOk s.cfg = false → step s = .refused .illFormedConfig) ∧
  (∀ (s : State) (cw : U32) (during : List U32) (rest : List HostAct), s.inbox = .command cw during :: rest →
    s.attached = false → step s = .refused .notAttached) ∧
  (∀ (s : State) (rest : List HostAct), s.inbox = .detach :: rest → s.attached = true → configOk s.cfg = true →
    ∃ t, step s = .next t ∧ t.attached = false ∧ t.bus = s.bus ∧ t.inbox = rest)

/-- 10_state.md R45: HOST writes an operand register while the block is idle; nothing else changes. -/
def Obligations.HostWritesOperandRegister : Prop :=
  ∀ (s : State) (r : Fin 8) (v : U64) (rest : List HostAct),
    s.inbox = .writeX r v :: rest → s.attached = true → configOk s.cfg = true →
    step s = .next { s with x := s.x.set r.val v, inbox := rest }

/-- 60_exceptions.md R255, R256: whatever an operation does, when it ends `pc` has advanced by one, one record
was delivered, `lastErr` is its status, a non-zero status set its sticky bit and no other bit of
`faults` changed, the info of a completion is 0, the status is one an operation can end with; the
configuration, the attachment and HOST's further acts are untouched. -/
def Obligations.EveryEndingIsRecorded : Prop :=
  ∀ (i : Instr) (s t : State), exec i s = .next t →
    ∃ r : Completion, t.records = r :: s.records ∧ t.pc = s.pc + 1 ∧ t.dc.lastErr = r.status ∧
      t.dc.faults = (if r.status = 0 then s.dc.faults else s.dc.faults ||| (1 <<< r.status.toNat)) ∧
      (r.status = 0 → r.info = 0) ∧ r.status ∈ [0, 1, 3, 4, 5, 6, 8] ∧
      t.cfg = s.cfg ∧ t.attached = s.attached ∧ t.inbox = s.inbox

/-- 30_encoding.md R99: an operation that ends in a fault writes no operand register. -/
def Obligations.FaultWritesNoOperandRegister : Prop :=
  ∀ (i : Instr) (s t : State), exec i s = .next t → t.dc.lastErr ≠ 0 → t.x = s.x

/-- 20_memory.md R63, 60_exceptions.md R257: an operation counts one failed transaction when it ends with a
TransportError, and none otherwise. -/
def Obligations.ErrorCounterCountsFailures : Prop :=
  ∀ (i : Instr) (s t : State), exec i s = .next t →
    t.dc.errcnt = if t.dc.lastErr = 1 then s.dc.errcnt + 1 else s.dc.errcnt

/-- 60_exceptions.md R262: an operand value no configuration allows makes the operation raise
PreconditionViolation before any bus transaction and any state change. -/
def Obligations.IllegalOperandsChangeNothing : Prop :=
  ∀ (i : Instr) (s : State), i.wf = false → ∃ info, exec i s = .next (faulted 3 info s)

/-- 47_host_ops.md, 41_dsp_kernels.md, and the Faults of each rule (60_exceptions.md R256): these operations make
no bus transaction. -/
def Obligations.NoBusTransaction : Prop :=
  ∀ (i : Instr) (s t : State), exec i s = .next t →
    (∃ d v, i = .xli d v ∨ i = .xlih d v ∨ i = .brd d v ∨ i = .bwr d v) ∨ (∃ d r, i = .xmov d r) ∨
    (∃ n, i = .fft n ∨ i = .mag n) ∨
    i ∈ [.nop, .isqrt, .wingen, .window, .deint, .pmeta, .favg, .gnorm, .thresh, .peak, .fdecide, .b2mhz,
         .mhz2b, .l2c, .c2l, .alscalc, .alseq, .getals, .getflk] →
    t.bus = s.bus

/-- 70_reset_and_hazards.md R303, 46_dispatch.md R216: with a finite `DISPATCH_CAP` every operation ends. With an
infinite cap and a status that still reads non-zero after `fuel + 1` passes, DISPATCH answers the fault
`dispatchDoesNotEnd` and no state: that number of passes is the model's choice (log 7). -/
def Obligations.OperationsEnd : Prop :=
  (∀ (i : Instr) (s : State), capFinite s → ∃ t, exec i s = .next t) ∧
  (∀ (s : State) (fuel : Nat), s.cfg.dispatchCap = .unbounded fuel →
    ∀ t, unfinishedPasses (fuel + 1) { s with dc := { s.dc with phase := .dispatch } } t →
    exec .dispatch s = .fault .dispatchDoesNotEnd)

/-- 42_fifo_parser.md R157, 10_state.md R23 to R38: every step from a legal state leaves a legal state,
whatever HOST and the device do. -/
def Obligations.StepKeepsLegality : Prop := ∀ s t : State, s.Legal → step s = .next t → t.Legal

/-- 10_state.md R46: the state after reset is legal. -/
def Obligations.ResetIsLegal : Prop := State.reset.Legal

/-! ### Host utility operations (47_host_ops.md) -/

/-- 47_host_ops.md R235 to R238: NOP, XLI, XLIH and XMOV, for every register number. -/
def Obligations.HostMoves : Prop :=
  (∀ s : State, exec .nop s = .next (completed s)) ∧
  (∀ (s : State) (d : Byte) (imm : U16), exec (.xli d imm) s = .next (
    if d.toNat < 8 then completed { s with x := s.x.setIfInBounds d.toNat (BitVec.ofNat 64 imm.toNat) }
    else faulted 3 (d.setWidth 16) s)) ∧
  (∀ (s : State) (d : Byte) (imm : U16), exec (.xlih d imm) s = .next (
    if d.toNat < 8 then completed { s with
      x := s.x.setIfInBounds d.toNat (BitVec.ofNat 64 ((s.x.getD d.toNat 0).toNat * 65536 + imm.toNat)) }
    else faulted 3 (d.setWidth 16) s)) ∧
  (∀ (s : State) (d r : Byte), exec (.xmov d r) s = .next (
    if d.toNat < 8 then
      if r.toNat < 8 then completed { s with x := s.x.setIfInBounds d.toNat (s.x.getD r.toNat 0) }
      else faulted 3 (r.setWidth 16) s
    else faulted 3 (d.setWidth 16) s))

/-- 30_encoding.md R97: the four commands of `LI64 d, v` leave `v` in `x[d]` and the other registers as they
were. -/
def Obligations.LoadImmediate64 : Prop :=
  ∀ (s : State) (d : Byte) (v : U64), d.toNat < 8 →
    ∃ t1 t2 t3 t4, exec (.xli d (v.extractLsb' 48 16)) s = .next t1 ∧
      exec (.xlih d (v.extractLsb' 32 16)) t1 = .next t2 ∧ exec (.xlih d (v.extractLsb' 16 16)) t2 = .next t3 ∧
      exec (.xlih d (v.extractLsb' 0 16)) t3 = .next t4 ∧ t4.x = s.x.setIfInBounds d.toNat v

/-- 20_memory.md R77, 47_host_ops.md R239: BRD for each selector: the element zero-extended, or sign-extended
for RE, IM, COS_TAB and SIN_TAB; the refusals; nothing else changes. -/
def Obligations.BufferReadReturnsElement : Prop :=
  ∀ (s : State) (sel : Byte) (idx : U16),
    let i := idx.toNat
    let row (n : Nat) (len : Nat) (v : U64) : Prop := sel.toNat = n →
      exec (.brd sel idx) s = .next (if i < len then completed { s with x := s.x.set 0 v } else faulted 3 idx s)
    row 0 s.cfg.flk.fftMax (BitVec.ofNat 64 (s.buf.clear.getD i 0).toNat) ∧
    row 1 s.cfg.flk.fftMax (BitVec.ofNat 64 (s.buf.wide.getD i 0).toNat) ∧
    row 2 s.cfg.flk.fftMax (s.buf.re.getD i 0) ∧
    row 3 s.cfg.flk.fftMax (s.buf.im.getD i 0) ∧
    row 4 s.cfg.flk.fftMax (s.buf.mag.getD i 0) ∧
    row 5 128 (BitVec.ofNat 64 (s.buf.win.getD i 0).toNat) ∧
    row 6 s.cfg.flk.ringMax (BitVec.ofNat 64 (s.buf.ring.getD i 0).toNat) ∧
    row 7 s.cfg.bus.xferMax (BitVec.ofNat 64 (s.buf.xfer.getD i 0).toNat) ∧
    row 8 512 (BitVec.ofInt 64 (s.cfg.cosTab.getD i 0).toInt) ∧
    row 9 512 (BitVec.ofInt 64 (s.cfg.sinTab.getD i 0).toInt) ∧
    row 10 14 (BitVec.ofNat 64 (1000 * 2 ^ i)) ∧
    row 11 128 (BitVec.ofNat 64 (s.cfg.winTab.getD i 0).toNat) ∧
    (11 < sel.toNat → exec (.brd sel idx) s = .next (faulted 3 (sel.setWidth 16) s))

/-- 20_memory.md R77, 47_host_ops.md R240: BWR stores the low bits of `x[1]` in one element of a writable
buffer; the refusals, in their order; nothing else changes. -/
def Obligations.BufferWriteStoresElement : Prop :=
  ∀ (s : State) (sel : Byte) (idx : U16),
    let i := idx.toNat
    let v := s.x.getD 1 0
    let row (n : Nat) (len : Nat) (buf : Buffers) : Prop := sel.toNat = n →
      exec (.bwr sel idx) s = .next (if i < len then completed { s with buf := buf } else faulted 3 idx s)
    row 0 s.cfg.flk.fftMax { s.buf with clear := s.buf.clear.set i (BitVec.ofNat 16 v.toNat) } ∧
    row 1 s.cfg.flk.fftMax { s.buf with wide := s.buf.wide.set i (BitVec.ofNat 16 v.toNat) } ∧
    row 2 s.cfg.flk.fftMax { s.buf with re := s.buf.re.set i v } ∧
    row 3 s.cfg.flk.fftMax { s.buf with im := s.buf.im.set i v } ∧
    row 4 s.cfg.flk.fftMax { s.buf with mag := s.buf.mag.set i v } ∧
    row 7 s.cfg.bus.xferMax { s.buf with xfer := s.buf.xfer.set i (BitVec.ofNat 8 v.toNat) } ∧
    (¬ sel.toNat ∈ [0, 1, 2, 3, 4, 7] → exec (.bwr sel idx) s = .next (faulted 3 (sel.setWidth 16) s))

/-! ### Register access (40_register_access.md) -/

/-- 40_register_access.md R111, R112: GETB and SETB, their transaction, result and shadows, their faults on a
failed transaction, their refusals. (The shadows of a configuration in which `R_STATUS` shares an id: log 27.) -/
def Obligations.ByteAccess : Prop :=
  (∀ (s : State) (reg : Byte),
    (regMax s.cfg ≤ reg.toNat → exec (.getb reg) s = .next (faulted 3 (reg.setWidth 16) s)) ∧
    (reg.toNat < regMax s.cfg →
      (∀ v b, readOk s.cfg s.bus reg 1 [v] b → exec (.getb reg) s = .next (completed { s with
        x := s.x.set 0 (BitVec.ofNat 64 v.toNat), dc := noteRead s.cfg reg v s.dc, bus := b })) ∧
      (∀ b, readFails s.cfg s.bus reg 1 b → exec (.getb reg) s = .next (faulted 1 (reg.setWidth 16) { s with
        dc := countFailure s.dc, bus := b })))) ∧
  (∀ (s : State) (reg val : Byte),
    (regMax s.cfg ≤ reg.toNat → exec (.setb reg val) s = .next (faulted 3 (reg.setWidth 16) s)) ∧
    (reg.toNat < regMax s.cfg →
      (∀ b, writeOk s.cfg s.bus reg [val] b → exec (.setb reg val) s = .next (completed { s with
        dc := noteWrite s.cfg reg val s.dc, bus := b })) ∧
      (∀ b, writeFails s.cfg s.bus reg [val] b → exec (.setb reg val) s = .next (faulted 1 (reg.setWidth 16) { s with
        dc := countFailure s.dc, bus := b }))))

/-- 40_register_access.md R113, R114: GETW and SETW are one two-byte transaction, low byte first; the faults on
a failed transaction; the refusals. -/
def Obligations.WordAccessIsLittleEndian : Prop :=
  ∀ (s : State) (reg : Byte) (v : U16),
    (¬ wordIds s.cfg reg → exec (.getw reg) s = .next (faulted 3 (reg.setWidth 16) s) ∧
      exec (.setw reg v) s = .next (faulted 3 (reg.setWidth 16) s)) ∧
    (wordIds s.cfg reg →
      (∀ b0 b1 b, readOk s.cfg s.bus reg 2 [b0, b1] b → exec (.getw reg) s = .next (completed { s with
        x := s.x.set 0 (BitVec.ofNat 64 (b0.toNat + 256 * b1.toNat)), bus := b })) ∧
      (∀ b, readFails s.cfg s.bus reg 2 b → exec (.getw reg) s = .next (faulted 1 (reg.setWidth 16) { s with
        dc := countFailure s.dc, bus := b })) ∧
      (∀ b, writeOk s.cfg s.bus reg [BitVec.ofNat 8 v.toNat, BitVec.ofNat 8 (v.toNat / 256)] b →
        exec (.setw reg v) s = .next (completed { s with bus := b })) ∧
      (∀ b, writeFails s.cfg s.bus reg [BitVec.ofNat 8 v.toNat, BitVec.ofNat 8 (v.toNat / 256)] b →
        exec (.setw reg v) s = .next (faulted 1 (reg.setWidth 16) { s with dc := countFailure s.dc, bus := b })))

/-- 40_register_access.md R115, R116: GETBUF fills `XFER[0 .. len-1]` and nothing beyond; SETBUF sends those bytes
in one transaction and writes nothing in the block; their faults and refusals. -/
def Obligations.BufferTransfers : Prop :=
  (∀ (s : State) (reg len : Byte), s.buf.xfer.length = s.cfg.bus.xferMax →
    (regMax s.cfg ≤ reg.toNat → exec (.getbuf reg len) s = .next (faulted 3 (reg.setWidth 16) s)) ∧
    (reg.toNat < regMax s.cfg →
      (len = 0 ∨ s.cfg.bus.xferMax < len.toNat →
        exec (.getbuf reg len) s = .next (faulted 3 (len.setWidth 16) s)) ∧
      (len ≠ 0 → len.toNat ≤ s.cfg.bus.xferMax →
        (∀ bytes b, readOk s.cfg s.bus reg len.toNat bytes b →
          exec (.getbuf reg len) s = .next (completed { s with
            buf := { s.buf with xfer := bytes ++ s.buf.xfer.drop len.toNat }, bus := b })) ∧
        (∀ b, readFails s.cfg s.bus reg len.toNat b → exec (.getbuf reg len) s =
          .next (faulted 1 (reg.setWidth 16) { s with dc := countFailure s.dc, bus := b }))))) ∧
  (∀ (s : State) (reg len : Byte), s.buf.xfer.length = s.cfg.bus.xferMax →
    (regMax s.cfg ≤ reg.toNat → exec (.setbuf reg len) s = .next (faulted 3 (reg.setWidth 16) s)) ∧
    (reg.toNat < regMax s.cfg →
      (len = 0 ∨ s.cfg.bus.xferMax < len.toNat →
        exec (.setbuf reg len) s = .next (faulted 3 (len.setWidth 16) s)) ∧
      (len ≠ 0 → len.toNat ≤ s.cfg.bus.xferMax →
        (∀ b, writeOk s.cfg s.bus reg (s.buf.xfer.take len.toNat) b →
          exec (.setbuf reg len) s = .next (completed { s with bus := b })) ∧
        (∀ b, writeFails s.cfg s.bus reg (s.buf.xfer.take len.toNat) b → exec (.setbuf reg len) s =
          .next (faulted 1 (reg.setWidth 16) { s with dc := countFailure s.dc, bus := b })))))

/-- 40_register_access.md R117: GETF returns the masked byte, not shifted down; its faults and refusal. -/
def Obligations.GetFieldMasks : Prop :=
  ∀ (s : State) (reg mask : Byte),
    (regMax s.cfg ≤ reg.toNat → exec (.getf reg mask) s = .next (faulted 3 (reg.setWidth 16) s)) ∧
    (reg.toNat < regMax s.cfg →
      (∀ v b, readOk s.cfg s.bus reg 1 [v] b → exec (.getf reg mask) s = .next (completed { s with
        x := s.x.set 0 (BitVec.ofNat 64 (v &&& mask).toNat), dc := noteRead s.cfg reg v s.dc, bus := b })) ∧
      (∀ b, readFails s.cfg s.bus reg 1 b → exec (.getf reg mask) s = .next (faulted 1 (reg.setWidth 16) { s with
        dc := countFailure s.dc, bus := b })))

/-- 40_register_access.md R118: SETF reads, merges, writes back only if the byte differs, and says in `x[0]`
whether it wrote; its faults and refusals. -/
def Obligations.SetFieldWritesOnlyChanges : Prop :=
  ∀ (s : State) (reg val mask : Byte),
    (regMax s.cfg ≤ reg.toNat ∨ val &&& ~~~mask ≠ 0 →
      exec (.setf reg val mask) s = .next (faulted 3 (reg.setWidth 16) s)) ∧
    (reg.toNat < regMax s.cfg → val &&& ~~~mask = 0 →
      (∀ b dc wrote, fieldDone s.cfg ⟨reg, val, mask⟩ s.bus s.dc b dc wrote →
        exec (.setf reg val mask) s = .next (completed { s with
          x := s.x.set 0 (if wrote = true then 1 else 0), dc := dc, bus := b })) ∧
      (∀ b dc, fieldFails s.cfg ⟨reg, val, mask⟩ s.bus s.dc b dc →
        exec (.setf reg val mask) s = .next (faulted 1 (reg.setWidth 16) { s with dc := dc, bus := b })))

/-- 40_register_access.md R118, a consequence the spec marks as derived: "two identical calls perform exactly one
bus write": on the reference device, on a register it stores as written, two equal SETFs complete; the first
reads, and writes the merged byte unless it is the one read; the second reads the merged byte and writes
nothing. -/
def Obligations.SetFieldTwiceWritesOnce : Prop :=
  ∀ (s : State) (d : SimDev) (reg val mask : Byte), simAnswers s.bus d → memWf d.reg = true →
    reg.toNat < regMax s.cfg → val &&& ~~~mask = 0 →
    (∀ r ∈ [s.cfg.reg.fifoData, s.cfg.reg.fifoLvl, s.cfg.reg.fifoStat, s.cfg.reg.status, s.cfg.reg.control],
      regAddr s.cfg reg.toNat ≠ regAddr s.cfg r.toNat) →
    let addr := regAddr s.cfg reg.toNat
    ∃ t u orig v, exec (.setf reg val mask) s = .next t ∧ exec (.setf reg val mask) t = .next u ∧
      t.dc.lastErr = 0 ∧ u.dc.lastErr = 0 ∧ v = merged orig ⟨reg, val, mask⟩ ∧ v &&& mask = val ∧
      (v = orig → t.x[0] = 0 ∧ t.bus.log = .read addr 1 (some [orig]) :: s.bus.log) ∧
      (v ≠ orig → t.x[0] = 1 ∧
        t.bus.log = .write addr [v] true :: .read addr 1 (some [orig]) :: s.bus.log) ∧
      u.x[0] = 0 ∧ u.bus.log = .read addr 1 (some [v]) :: t.bus.log

/-- 40_register_access.md R119: IDENT reads the chip id, then the revision; the first entry that matches both
is the variant and the result; with none the variant is NONE and the operation faults; its transport
faults. -/
def Obligations.IdentMatchesFirstEntry : Prop :=
  ∀ s : State, configOk s.cfg = true →
    let c := s.cfg
    let fits (id rev : Byte) (e : IdEntry) : Prop := id &&& e.idMask = e.id ∧ rev &&& e.revMask = e.rev
    (∀ b, readFails c s.bus c.reg.id 1 b → exec .ident s = .next (faulted 1 (c.reg.id.setWidth 16) { s with
      dc := countFailure s.dc, bus := b })) ∧
    (∀ id b1, readOk c s.bus c.reg.id 1 [id] b1 →
      (∀ b, readFails c b1 c.reg.revid 1 b → exec .ident s = .next (faulted 1 (c.reg.revid.setWidth 16) { s with
        dc := countFailure (noteRead c c.reg.id id s.dc), bus := b })) ∧
      (∀ rev b2, readOk c b1 c.reg.revid 1 [rev] b2 →
        let dc := noteRead c c.reg.revid rev (noteRead c c.reg.id id s.dc)
        (∀ before e after, c.bus.deviceIds = before ++ e :: after → (∀ e' ∈ before, ¬ fits id rev e') → fits id rev e →
          exec .ident s = .next (completed { s with
            x := s.x.set 0 (BitVec.ofNat 64 before.length), dc := { dc with variant := some before.length },
            bus := b2 })) ∧
        ((∀ e ∈ c.bus.deviceIds, ¬ fits id rev e) →
          exec .ident s = .next (faulted 8 (id.setWidth 16) { s with dc := { dc with variant := none }, bus := b2 }))))

/-! ### DSP kernels (41_dsp_kernels.md) -/

/-- 41_dsp_kernels.md R131: ISQRT gives the unique floor square root, for every 64-bit value. -/
def Obligations.SquareRootIsFloor : Prop :=
  ∀ s : State, ∃ r : Nat, exec .isqrt s = .next (completed { s with x := s.x.set 0 (BitVec.ofNat 64 r) }) ∧
    r * r ≤ (s.x[1]).toNat ∧ (s.x[1]).toNat < (r + 1) * (r + 1) ∧ r ≤ 0xFFFFFFFF

/-- 41_dsp_kernels.md R133, R134: WINGEN copies the window table; WINDOW scales the 128 clear samples, zeroes the
imaginary parts, makes the saturation flag sticky, returns it, and leaves every other element and
field alone; another frame length is refused. -/
def Obligations.WindowKernels : Prop :=
  (∀ s : State, s.Legal →
    exec .wingen s = .next (completed { s with buf := { s.buf with win := s.cfg.winTab } })) ∧
  (∀ s : State, s.Legal →
    (s.flk.sampleCount.toNat ≠ 128 → exec .window s = .next (faulted 3 s.flk.sampleCount s)) ∧
    (s.flk.sampleCount.toNat = 128 → ∃ (re im : List U64) (satf : Bool),
      exec .window s = .next (completed { s with
        x := s.x.set 0 (if satf = true then 1 else 0)
        flk := { s.flk with satf := satf }
        buf := { s.buf with re := re, im := im } }) ∧
      (satf = true ↔ s.flk.satf = true ∨ ∃ i < 128, 0x3FFF ≤ (s.buf.clear.getD i 0).toNat) ∧
      re.length = s.buf.re.length ∧ im.length = s.buf.im.length ∧
      (∀ i, re.getD i 0 = if i < 128 then
          BitVec.ofNat 64 ((s.buf.clear.getD i 0).toNat * (s.buf.win.getD i 0).toNat / 1024)
        else s.buf.re.getD i 0) ∧
      (∀ i, im.getD i 0 = if i < 128 then 0 else s.buf.im.getD i 0)))

/-- 41_dsp_kernels.md R132, R135: FFT above `FFT_MAX` is a silent no-op, other sizes that are no power of two are
refused, one element is left alone, two elements become their sum and difference, and with the default tables
four become their exact discrete Fourier transform. The bit-reversal permutation, a gather in the model (log
16), is the rule's exchanges and an involution. -/
def Obligations.SmallTransforms : Prop :=
  (∀ (s : State) (n : U16),
    (s.cfg.flk.fftMax < n.toNat → exec (.fft n) s = .next (completed s)) ∧
    (n.toNat ≤ s.cfg.flk.fftMax → (∀ m, n.toNat ≠ 2 ^ m) → exec (.fft n) s = .next (faulted 3 n s)) ∧
    (n.toNat = 1 → 1 ≤ s.cfg.flk.fftMax → exec (.fft n) s = .next (completed s))) ∧
  (∀ s : State, s.Legal →
    let a (l : List U64) (i : Nat) : Int := (l.getD i 0).toInt
    (∀ l ∈ [s.buf.re, s.buf.im], ∀ i < 2, -(2 ^ 46) ≤ a l i ∧ a l i ≤ 2 ^ 46) →
    exec (.fft 2) s = .next (completed { s with buf := { s.buf with
      re := (s.buf.re.set 0 (BitVec.ofInt 64 (a s.buf.re 0 + a s.buf.re 1))).set 1
        (BitVec.ofInt 64 (a s.buf.re 0 - a s.buf.re 1))
      im := (s.buf.im.set 0 (BitVec.ofInt 64 (a s.buf.im 0 + a s.buf.im 1))).set 1
        (BitVec.ofInt 64 (a s.buf.im 0 - a s.buf.im 1)) } })) ∧
  (∀ s : State, s.Legal → s.cfg.cosTab = cosTabDefault → s.cfg.sinTab = sinTabDefault →
    let r (i : Nat) : Int := (s.buf.re.getD i 0).toInt
    let q (i : Nat) : Int := (s.buf.im.getD i 0).toInt
    (∀ i < 4, -(2 ^ 44) ≤ r i ∧ r i ≤ 2 ^ 44 ∧ -(2 ^ 44) ≤ q i ∧ q i ≤ 2 ^ 44) →
    exec (.fft 4) s = .next (completed { s with buf := { s.buf with
      re := [r 0 + r 1 + r 2 + r 3, r 0 + q 1 - r 2 - q 3, r 0 - r 1 + r 2 - r 3, r 0 - q 1 - r 2 + q 3].map
        (BitVec.ofInt 64) ++ s.buf.re.drop 4
      im := [q 0 + q 1 + q 2 + q 3, q 0 - r 1 - q 2 + r 3, q 0 - q 1 + q 2 - q 3, q 0 + r 1 - q 2 - r 3].map
        (BitVec.ofInt 64) ++ s.buf.im.drop 4 } })) ∧
  (∀ (m : Nat) (l : List U64), 2 ^ m ≤ l.length →
    bitReverse m l = exchanges m (2 ^ m) 0 l ∧ bitReverse m (bitReverse m l) = l)

/-- 41_dsp_kernels.md R130, R132, R135: however FFT ends, it changes only elements 0 to n-1 of RE and IM and the
bookkeeping, and an overflow reports one of those elements; when a power-of-two size completes, those
elements are what the permutation and the stages 1 to log2(n), each with its running twiddle, make of the old
ones. -/
def Obligations.TransformTouchesItsElements : Prop :=
  (∀ (s t : State) (n : U16), exec (.fft n) s = .next t →
    (∃ status info, t = (if status = 0 then completed else faulted status info)
        { s with buf := { s.buf with re := t.buf.re, im := t.buf.im } } ∧
      (status = 5 → info.toNat < n.toNat)) ∧
    t.buf.re.length = s.buf.re.length ∧ t.buf.im.length = s.buf.im.length ∧
    (∀ i, n.toNat ≤ i → t.buf.re.getD i 0 = s.buf.re.getD i 0 ∧ t.buf.im.getD i 0 = s.buf.im.getD i 0)) ∧
  (∀ (s t : State) (n : U16) (m : Nat), s.Legal → n.toNat = 2 ^ m → n.toNat ≤ s.cfg.flk.fftMax →
    exec (.fft n) s = .next t → t.dc.lastErr = 0 →
    ∃ re im : Nat → List U64,
      (∀ i < n.toNat, (re 0).getD i 0 = s.buf.re.getD (bitrev i m) 0 ∧ (im 0).getD i 0 = s.buf.im.getD (bitrev i m) 0) ∧
      (∀ k < m, stageTakes s.cfg n.toNat (2 ^ (k + 1)) (re k) (im k) (re (k + 1)) (im (k + 1))) ∧
      (∀ i < n.toNat, (re m).getD i 0 = t.buf.re.getD i 0 ∧ (im m).getD i 0 = t.buf.im.getD i 0))

/-- 41_dsp_kernels.md R136, which the spec marks as its own inference: with the default tables, elements of magnitude at most 2^32 are transformed without
overflow at every power-of-two size, and the results stay within 2^44. -/
def Obligations.TransformDoesNotOverflow : Prop :=
  ∀ (s : State) (n : U16) (m : Nat), s.Legal → s.cfg.cosTab = cosTabDefault → s.cfg.sinTab = sinTabDefault →
    n.toNat = 2 ^ m → n.toNat ≤ s.cfg.flk.fftMax →
    (∀ l ∈ [s.buf.re, s.buf.im], ∀ i < n.toNat, -(2 ^ 32) ≤ (l.getD i 0).toInt ∧ (l.getD i 0).toInt ≤ 2 ^ 32) →
    ∃ re im, exec (.fft n) s = .next (completed { s with buf := { s.buf with re := re, im := im } }) ∧
      (∀ l ∈ [re, im], ∀ i < n.toNat, -(2 ^ 44) ≤ (l.getD i 0).toInt ∧ (l.getD i 0).toInt ≤ 2 ^ 44)

/-- 41_dsp_kernels.md R137: MAG writes the floor square root of each pre-shifted bin's power up to the first
that overflows, which it reports; elements from there on, or from n on, and everything else are
unchanged; sizes 0 and above `FFT_MAX` are refused. -/
def Obligations.MagnitudeOfEachBin : Prop :=
  ∀ (s : State) (n : U16), s.Legal →
    let r (l : List U64) (i : Nat) : Int := (l.getD i 0).toInt / 2 ^ s.cfg.flk.magPreshift
    let p (i : Nat) : Int := r s.buf.re i * r s.buf.re i + r s.buf.im i * r s.buf.im i
    let root (k : Nat) (mag : List U64) : Prop := mag.length = s.buf.mag.length ∧
      (∀ i < k, ((mag.getD i 0).toNat : Int) * (mag.getD i 0).toNat ≤ p i ∧
        p i < ((mag.getD i 0).toNat + 1) * ((mag.getD i 0).toNat + 1)) ∧
      (∀ i, k ≤ i → mag.getD i 0 = s.buf.mag.getD i 0)
    (n = 0 ∨ s.cfg.flk.fftMax < n.toNat → exec (.mag n) s = .next (faulted 3 n s)) ∧
    (n ≠ 0 → n.toNat ≤ s.cfg.flk.fftMax →
      ((∀ i < n.toNat, p i < 2 ^ 64) → ∃ mag, root n.toNat mag ∧
        exec (.mag n) s = .next (completed { s with buf := { s.buf with mag := mag } })) ∧
      (∀ k : U16, k.toNat < n.toNat → 2 ^ 64 ≤ p k.toNat → (∀ i < k.toNat, p i < 2 ^ 64) → ∃ mag, root k.toNat mag ∧
        exec (.mag n) s = .next (faulted 5 k { s with buf := { s.buf with mag := mag } })))

/-! ### FIFO drain and frame parser (42_fifo_parser.md) -/

/-- 42_fifo_parser.md R151, R152: from the reference device, a FIFO content that fits the ring is appended whole,
in order, the FIFO is left empty, and data-ready and `x[0]` say whether a frame is buffered; nothing
else changes but the shadows and the transaction log. -/
def Obligations.DrainMovesTheFifo : Prop :=
  ∀ (s : State) (d : SimDev), s.Legal → simAnswers s.bus d → d.ovf = false →
    let c := s.cfg
    let len := s.buf.ringLen.toNat
    regAddr c c.reg.fifoLvl.toNat ≠ regAddr c c.reg.fifoData.toNat →
    regAddr c c.reg.fifoStat.toNat ≠ regAddr c c.reg.fifoData.toNat →
    regAddr c c.reg.fifoStat.toNat ≠ regAddr c c.reg.fifoLvl.toNat →
    d.fifo.length < 2 ^ (8 + c.bus.nLow) → len + d.fifo.length ≤ s.flk.fifoThreshold.toNat →
    ∃ t dc bus, exec .drain s = .next t ∧ bus.dev = .sim { d with fifo := [] } ∧
      dc = noteRead c c.reg.fifoStat (BitVec.ofNat 8 (d.fifo.length % 2 ^ c.bus.nLow))
        (noteRead c c.reg.fifoLvl (BitVec.ofNat 8 (d.fifo.length / 2 ^ c.bus.nLow)) s.dc) ∧
      let ready := decide (frameBytes s.flk ≤ len + d.fifo.length)
      t = completed { s with
        x := s.x.set 0 (if ready = true then 1 else 0)
        dc := dc
        bus := bus
        flk := { s.flk with dataReady := ready }
        buf := { s.buf with
          ring := s.buf.ring.take len ++ d.fifo ++ s.buf.ring.drop (len + d.fifo.length)
          ringLen := BitVec.ofNat 16 (len + d.fifo.length) } }

/-- 42_fifo_parser.md R151 to R153: what DRAIN does for every answer of the device: a failed level or status read;
the overflow flag (reset-and-abort); after any number of data chunks read and appended, all pending bytes
fetched (data-ready recomputed), or a next chunk that does not fit the ring (reset-and-abort, the chunks read
are discarded), or a failed data read (the chunks already appended stay, data-ready and `x` keep their
values). -/
def Obligations.DrainAbortsOnOverflow : Prop :=
  ∀ s : State, s.Legal →
    let c := s.cfg
    let info (reg : Byte) : U16 := reg.setWidth 16
    (∀ b, readFails c s.bus c.reg.fifoLvl 1 b →
      exec .drain s = .next (faulted 1 (info c.reg.fifoLvl) { s with dc := countFailure s.dc, bus := b })) ∧
    (∀ lvl b1, readOk c s.bus c.reg.fifoLvl 1 [lvl] b1 →
      let dc1 := noteRead c c.reg.fifoLvl lvl s.dc
      (∀ b, readFails c b1 c.reg.fifoStat 1 b →
        exec .drain s = .next (faulted 1 (info c.reg.fifoStat) { s with dc := countFailure dc1, bus := b })) ∧
      (∀ fst b2, readOk c b1 c.reg.fifoStat 1 [fst] b2 →
        let dc := noteRead c c.reg.fifoStat fst dc1
        let pending := lvl.toNat * 2 ^ c.bus.nLow + fst.toNat % 2 ^ c.bus.nLow
        let aborts (ring : List Byte) (ringLen : U16) (bus : Bus) : Prop :=
          let clear : FieldWrite := ⟨c.reg.control, c.mask.fifoClr, c.mask.fifoClr⟩
          (∀ b dc' wrote, fieldDone c clear bus dc b dc' wrote → exec .drain s = .next (completed { s with
            x := s.x.set 0 0, dc := dc', bus := b, flk := { s.flk with dataReady := false },
            buf := { s.buf with ring := ring, ringLen := 0 } })) ∧
          (∀ b dc', fieldFails c clear bus dc b dc' →
            exec .drain s = .next (faulted 1 (info c.reg.control) { s with
              dc := dc', bus := b, buf := { s.buf with ring := ring, ringLen := ringLen } }))
        (fst &&& c.mask.fifoOvf ≠ 0 → aborts s.buf.ring s.buf.ringLen b2) ∧
        (fst &&& c.mask.fifoOvf = 0 → ∀ chunks b3, chunksRead c pending chunks b2 b3 →
          let got := chunks.flatten
          let len := s.buf.ringLen.toNat + got.length
          let next := min (pending - got.length) c.bus.xferMax
          let ring := s.buf.ring.take s.buf.ringLen.toNat ++ got ++ s.buf.ring.drop len
          let ringLen := BitVec.ofNat 16 len
          len ≤ s.flk.fifoThreshold.toNat →
          (got.length = pending →
            let ready := decide (frameBytes s.flk ≤ len)
            exec .drain s = .next (completed { s with
              x := s.x.set 0 (if ready = true then 1 else 0), dc := dc, bus := b3,
              flk := { s.flk with dataReady := ready }, buf := { s.buf with ring := ring, ringLen := ringLen } })) ∧
          (got.length < pending → s.flk.fifoThreshold.toNat < len + next → aborts ring ringLen b3) ∧
          (got.length < pending → len + next ≤ s.flk.fifoThreshold.toNat →
            ∀ b, readFails c b3 c.reg.fifoData next b →
            exec .drain s = .next (faulted 1 (info c.reg.fifoData) { s with
              dc := countFailure dc, bus := b, buf := { s.buf with ring := ring, ringLen := ringLen } })))))

/-- 42_fifo_parser.md R154: DEINT splits the first N pairs little-endian, clear first, leaves the elements from N
on, the ring and everything else alone; its refusals. -/
def Obligations.DeinterleaveSplitsPairs : Prop :=
  ∀ s : State, s.Legal →
    let n := s.flk.sampleCount.toNat
    let word (off : Nat) : U16 := BitVec.ofNat 16 ((s.buf.ring.getD off 0).toNat + 256 * (s.buf.ring.getD (off + 1) 0).toNat)
    (n = 0 ∨ s.cfg.flk.fftMax < n → exec .deint s = .next (faulted 3 s.flk.sampleCount s)) ∧
    (0 < n → n ≤ s.cfg.flk.fftMax →
      (s.buf.ringLen.toNat < 4 * n → exec .deint s = .next (faulted 3 s.buf.ringLen s)) ∧
      (4 * n ≤ s.buf.ringLen.toNat → ∃ clear wide,
        exec .deint s = .next (completed { s with buf := { s.buf with clear := clear, wide := wide } }) ∧
        clear.length = s.buf.clear.length ∧ wide.length = s.buf.wide.length ∧
        (∀ i, clear.getD i 0 = if i < n then word (4 * i) else s.buf.clear.getD i 0) ∧
        (∀ i, wide.getD i 0 = if i < n then word (4 * i + 2) else s.buf.wide.getD i 0)))

/-- 42_fifo_parser.md R155: PMETA reads the enabled trailer fields in the order gain, checksum, end-marker, each
after the enabled ones before it; a field that is absent keeps its value; too few bytes are refused. -/
def Obligations.MetadataFieldsInOrder : Prop :=
  ∀ s : State, s.Legal →
    let word (off : Nat) : Nat := (s.buf.ring.getD off 0).toNat + 256 * (s.buf.ring.getD (off + 1) 0).toNat
    let one (b : Bool) : Nat := if b = true then 1 else 0
    let off := 4 * s.flk.sampleCount.toNat
    let offC := off + 2 * one s.flk.metaGain
    let offE := offC + 2 * one s.flk.metaCsum
    let size := offE + 2 * one s.flk.metaEnd
    (s.buf.ringLen.toNat < size → exec .pmeta s = .next (faulted 3 s.buf.ringLen s)) ∧
    (size ≤ s.buf.ringLen.toNat → ∃ gain : List U4,
      exec .pmeta s = .next (completed { s with flk := { s.flk with
        gain := gain
        checksum := if s.flk.metaCsum = true then BitVec.ofNat 16 (word offC) else s.flk.checksum
        endMarker := if s.flk.metaEnd = true then BitVec.ofNat 16 (word offE) else s.flk.endMarker } }) ∧
      (s.flk.metaGain = false → gain = s.flk.gain) ∧
      (s.flk.metaGain = true → gain.length = s.cfg.flk.nMod ∧
        ∀ m < s.cfg.flk.nMod, (gain.getD m 0).toNat = word off / 16 ^ m % 16))

/-- 42_fifo_parser.md R156: FIFOCLR sets the clear bit of the control register with setField and changes nothing
else in the block; its transport fault. -/
def Obligations.FifoClearSetsControlBit : Prop :=
  ∀ s : State, configOk s.cfg = true →
    let c := s.cfg
    let clear : FieldWrite := ⟨c.reg.control, c.mask.fifoClr, c.mask.fifoClr⟩
    (∀ b dc wrote, fieldDone c clear s.bus s.dc b dc wrote →
      exec .fifoclr s = .next (completed { s with dc := dc, bus := b })) ∧
    (∀ b dc, fieldFails c clear s.bus s.dc b dc →
      exec .fifoclr s = .next (faulted 1 (c.reg.control.setWidth 16) { s with dc := dc, bus := b }))

/-! ### Flicker estimator (43_flicker.md) -/

/-- 43_flicker.md R165: FAVG stores and returns the floor means of the first N samples; its refusal. -/
def Obligations.FrameAveragesAreMeans : Prop :=
  ∀ s : State, s.Legal →
    let n := s.flk.sampleCount.toNat
    let mean (l : List U16) : Nat := ((List.range n).map fun i => (l.getD i 0).toNat).sum / n
    (n = 0 ∨ s.cfg.flk.fftMax < n → exec .favg s = .next (faulted 3 s.flk.sampleCount s)) ∧
    (0 < n → n ≤ s.cfg.flk.fftMax → exec .favg s = .next (completed { s with
      x := (s.x.set 0 (BitVec.ofNat 64 (mean s.buf.clear))).set 1 (BitVec.ofNat 64 (mean s.buf.wide))
      flk := { s.flk with
        avgC := BitVec.ofNat 32 (mean s.buf.clear)
        avgW := BitVec.ofNat 32 (mean s.buf.wide) } }))

/-- 43_flicker.md R166: GNORM refers each average to the reference gain, floor; a gain code above 13 is refused,
the clear channel's first. -/
def Obligations.GainNormalisation : Prop :=
  ∀ s : State, configOk s.cfg = true →
    let cC := s.flk.gain.getD s.cfg.flk.modClear 0
    let cW := s.flk.gain.getD s.cfg.flk.modWide 0
    let norm (avg : U32) (code : U4) : U64 :=
      BitVec.ofNat 64 (avg.toNat * (1000 * 2 ^ s.cfg.flk.gainRefCode.toNat) / (1000 * 2 ^ code.toNat))
    (13 < cC.toNat → exec .gnorm s = .next (faulted 3 (cC.setWidth 16) s)) ∧
    (cC.toNat ≤ 13 → 13 < cW.toNat → exec .gnorm s = .next (faulted 3 (cW.setWidth 16) s)) ∧
    (cC.toNat ≤ 13 → cW.toNat ≤ 13 → exec .gnorm s = .next (completed { s with
      x := (s.x.set 0 (norm s.flk.avgC cC)).set 1 (norm s.flk.avgW cW)
      flk := { s.flk with normC := norm s.flk.avgC cC, normW := norm s.flk.avgW cW } }))

/-- 43_flicker.md R167, 60_exceptions.md R263: THRESH, its division by a zero average, its overflow. -/
def Obligations.AdaptiveThreshold : Prop :=
  ∀ s : State,
    let ratio := max s.cfg.flk.ratioFloor.toNat (s.cfg.flk.targetClear.toNat / s.flk.normC.toNat)
    let t := (s.buf.mag.getD 0 0).toNat * ratio * s.cfg.flk.thrK.toNat / 1000000
    (s.flk.normC = 0 → exec .thresh s = .next (faulted 4 0 s)) ∧
    (s.flk.normC ≠ 0 → 2 ^ 64 ≤ t → exec .thresh s = .next (faulted 5 0 s)) ∧
    (s.flk.normC ≠ 0 → t < 2 ^ 64 → exec .thresh s = .next (completed { s with
      x := s.x.set 0 (BitVec.ofNat 64 t), flk := { s.flk with thresh := BitVec.ofNat 64 t } }))

/-- 43_flicker.md R168: PEAK finds, among bins 5 to 50, the first of the largest magnitudes. -/
def Obligations.PeakIsFirstMaximum : Prop :=
  ∀ s : State, ∃ b : Nat, 5 ≤ b ∧ b ≤ 50 ∧
    (∀ i, 5 ≤ i → i ≤ 50 → (s.buf.mag.getD i 0).toNat ≤ (s.buf.mag.getD b 0).toNat) ∧
    (∀ i, 5 ≤ i → i < b → (s.buf.mag.getD i 0).toNat < (s.buf.mag.getD b 0).toNat) ∧
    exec .peak s = .next (completed { s with
      x := (s.x.set 0 (BitVec.ofNat 64 b)).set 1 (s.buf.mag.getD b 0)
      flk := { s.flk with peakBin := BitVec.ofNat 16 b, peakMag := s.buf.mag.getD b 0 } })

/-- 43_flicker.md R169: FDECIDE reports the peak's frequency if it exceeds the threshold, else 0; its faults. -/
def Obligations.FrequencyDecision : Prop :=
  ∀ s : State,
    let n := s.flk.sampleCount.toNat
    let f := s.flk.peakBin.toNat * s.cfg.flk.sampleRateMhz.toNat / n
    (n = 0 → exec .fdecide s = .next (faulted 3 0 s)) ∧
    (n ≠ 0 → s.flk.peakMag.toNat ≤ s.flk.thresh.toNat → exec .fdecide s = .next (completed { s with
      x := s.x.set 0 0, flk := { s.flk with freq := 0 } })) ∧
    (n ≠ 0 → s.flk.thresh.toNat < s.flk.peakMag.toNat →
      (2 ^ 32 ≤ f → exec .fdecide s = .next (faulted 5 s.flk.peakBin s)) ∧
      (f < 2 ^ 32 → exec .fdecide s = .next (completed { s with
        x := s.x.set 0 (BitVec.ofNat 64 f), flk := { s.flk with freq := BitVec.ofNat 32 f } })))

/-- 43_flicker.md R170, R171: B2MHZ and MHZ2B, floor; their refusals. And, an inference the spec marks as derived:
MHZ2B, XMOV, B2MHZ take a frequency back to itself or below, by less than one bin's resolution plus 1. -/
def Obligations.BinFrequencyConversions : Prop :=
  (∀ s : State,
    let n := s.flk.sampleCount.toNat
    let v := (s.x[1]).toNat
    (n = 0 → exec .b2mhz s = .next (faulted 3 0 s) ∧ exec .mhz2b s = .next (faulted 3 0 s)) ∧
    (n ≠ 0 → 2 ^ 32 ≤ v → exec .b2mhz s = .next (faulted 3 (BitVec.ofNat 16 v) s) ∧
      exec .mhz2b s = .next (faulted 3 (BitVec.ofNat 16 v) s)) ∧
    (n ≠ 0 → v < 2 ^ 32 →
      exec .b2mhz s = .next (completed { s with
        x := s.x.set 0 (BitVec.ofNat 64 (v * s.cfg.flk.sampleRateMhz.toNat / n)) }) ∧
      exec .mhz2b s = .next (completed { s with
        x := s.x.set 0 (BitVec.ofNat 64 (v * n / s.cfg.flk.sampleRateMhz.toNat)) }))) ∧
  (∀ s : State,
    let n := s.flk.sampleCount.toNat
    let f := (s.x[1]).toNat
    let rate := s.cfg.flk.sampleRateMhz.toNat
    n ≠ 0 → f < 2 ^ 32 → 0 < rate → f * n / rate < 2 ^ 32 →
    ∃ t u v, exec .mhz2b s = .next t ∧ exec (.xmov 1 0) t = .next u ∧ exec .b2mhz u = .next v ∧ v.dc.lastErr = 0 ∧
      (v.x[0]).toNat ≤ f ∧ (f - (v.x[0]).toNat) * n < rate + n)

/-- 43_flicker.md R172: FLKEST clears the saturation flag and calls DRAIN; not ready, it ends with 0; ready and
above `FFT_MAX`, it skips the analysis and ends the cycle with 0; ready, it calls DEINT, PMETA, FAVG, GNORM,
WINDOW, FFT N, MAG N, THRESH, PEAK, FDECIDE in this order and ends the cycle with 1; the cycle's end calls
FIFOCLR and empties the ring. A fault of a step ends it there, what was done before kept; a fault of the
analysis leaves the FIFO uncleared, the ring as drained and data-ready set. On the reference device with an
empty FIFO and less than a frame buffered the cycle ends with 0. -/
def Obligations.FlickerCycle : Prop :=
  (∀ s : State,
    let start : State := { s with flk := { s.flk with satf := false } }
    (∀ status info t, callRaises .drain start status info t → exec .flkest s = .next (faulted status info t)) ∧
    (∀ t, callReturns .drain start 0 t → exec .flkest s = .next (completed { t with x := t.x.set 0 0 })) ∧
    (∀ t, callReturns .drain start 1 t →
      let n := t.flk.sampleCount
      let ends (u : State) (done : U64) : Prop :=
        (∀ result v, callReturns .fifoclr u result v → exec .flkest s = .next (completed { v with
          x := v.x.set 0 done, flk := { v.flk with dataReady := false }, buf := { v.buf with ringLen := 0 } })) ∧
        (∀ status info v, callRaises .fifoclr u status info v → exec .flkest s = .next (faulted status info v))
      (t.cfg.flk.fftMax < n.toNat → ends t 0) ∧
      (n.toNat ≤ t.cfg.flk.fftMax →
        (∀ u, stepsReturn (analysisSteps n) t u → ends u 1) ∧
        (∀ status info u, stepsRaise (analysisSteps n) t status info u →
          exec .flkest s = .next (faulted status info u) ∧ u.x = s.x ∧ u.bus = t.bus ∧ u.flk.dataReady = true ∧
            u.buf.ring = t.buf.ring ∧ u.buf.ringLen = t.buf.ringLen)))) ∧
  (∀ (s : State) (d : SimDev), s.Legal → simAnswers s.bus d → d.ovf = false → d.fifo = [] →
    s.buf.ringLen.toNat < frameBytes s.flk →
    ∃ dc bus, bus.dev = .sim d ∧ exec .flkest s = .next (completed { s with
      x := s.x.set 0 0, dc := dc, bus := bus, flk := { s.flk with satf := false, dataReady := false } }))

/-! ### Gain manager (44_agc.md) -/

/-- 44_agc.md R185, R186: L2C gives the code of the largest tabulated gain not above the operand, C2L the gain of
a code; their refusals. And, an inference the spec marks as derived: "for a tabulated g the round trip
returns g itself, and for 1000 ≤ g < 16384000 it returns a value in (g/2, g]". -/
def Obligations.GainCodeConversions : Prop :=
  (∀ s : State,
    let v := s.x[1]
    (v.toNat < 1000 → exec .l2c s = .next (faulted 3 (BitVec.ofNat 16 v.toNat) s)) ∧
    (1000 ≤ v.toNat → ∃ code : Nat, code ≤ 13 ∧ 1000 * 2 ^ code ≤ v.toNat ∧
      (∀ c ≤ 13, 1000 * 2 ^ c ≤ v.toNat → c ≤ code) ∧
      exec .l2c s = .next (completed { s with x := s.x.set 0 (BitVec.ofNat 64 code) })) ∧
    (13 < v.toNat → exec .c2l s = .next (faulted 3 (BitVec.ofNat 16 v.toNat) s)) ∧
    (v.toNat ≤ 13 → exec .c2l s = .next (completed { s with
      x := s.x.set 0 (BitVec.ofNat 64 (1000 * 2 ^ v.toNat)) }))) ∧
  (∀ s : State, 1000 ≤ (s.x[1]).toNat → (s.x[1]).toNat < 16384000 →
    ∃ t u v, exec .l2c s = .next t ∧ exec (.xmov 1 0) t = .next u ∧ exec .c2l u = .next v ∧ v.dc.lastErr = 0 ∧
      (v.x[0]).toNat ≤ (s.x[1]).toNat ∧ (s.x[1]).toNat < 2 * (v.x[0]).toNat ∧
      (∀ c ≤ 13, (s.x[1]).toNat = 1000 * 2 ^ c → v.x[0] = s.x[1]))

/-- 44_agc.md R187: AGCEN does the setField of register A, then of register B, then records the setting; a failed
transaction leaves the setting as it was and rolls nothing back; other operands are refused. -/
def Obligations.AgcEnableWritesTwoRegisters : Prop :=
  ∀ (s : State) (on : Byte), configOk s.cfg = true →
    let c := s.cfg
    let a : FieldWrite := ⟨c.reg.agcA, if on = 1 then c.mask.agcA else 0, c.mask.agcA⟩
    let b : FieldWrite := ⟨c.reg.agcB, if on = 1 then c.mask.agcB else 0, c.mask.agcB⟩
    (1 < on.toNat → exec (.agcen on) s = .next (faulted 3 (on.setWidth 16) s)) ∧
    (on.toNat ≤ 1 →
      (∀ bus dc, burstDone c [a, b] s.bus s.dc bus dc → exec (.agcen on) s = .next (completed { s with
        agc := { s.agc with enabled := decide (on = 1) }, dc := dc, bus := bus })) ∧
      (∀ reg bus dc, burstFails c [a, b] s.bus s.dc reg bus dc →
        exec (.agcen on) s = .next (faulted 1 (reg.setWidth 16) { s with dc := dc, bus := bus })))

/-- 44_agc.md R188, R189: AGCSAT and AGCPRED set their field of the mode register, then record the setting; their
faults and refusals. -/
def Obligations.AgcModesAreIndependent : Prop :=
  ∀ (s : State) (on : Byte), configOk s.cfg = true →
    let c := s.cfg
    let w (mask : Byte) : FieldWrite := ⟨c.reg.agcMode, if on = 1 then mask else 0, mask⟩
    let info := c.reg.agcMode.setWidth 16
    (1 < on.toNat → exec (.agcsat on) s = .next (faulted 3 (on.setWidth 16) s) ∧
      exec (.agcpred on) s = .next (faulted 3 (on.setWidth 16) s)) ∧
    (on.toNat ≤ 1 →
      (∀ bus dc wrote, fieldDone c (w c.mask.agcSat) s.bus s.dc bus dc wrote →
        exec (.agcsat on) s = .next (completed { s with
          agc := { s.agc with satAdaptive := decide (on = 1) }, dc := dc, bus := bus })) ∧
      (∀ bus dc, fieldFails c (w c.mask.agcSat) s.bus s.dc bus dc →
        exec (.agcsat on) s = .next (faulted 1 info { s with dc := dc, bus := bus })) ∧
      (∀ bus dc wrote, fieldDone c (w c.mask.agcPred) s.bus s.dc bus dc wrote →
        exec (.agcpred on) s = .next (completed { s with
          agc := { s.agc with predictive := decide (on = 1) }, dc := dc, bus := bus })) ∧
      (∀ bus dc, fieldFails c (w c.mask.agcPred) s.bus s.dc bus dc →
        exec (.agcpred on) s = .next (faulted 1 info { s with dc := dc, bus := bus })))

/-- 44_agc.md R190, R191: AGCWIN writes the window size field, AGCMAXG the channel's ceiling field, then each
records the setting, AGCMAXG for that channel alone; their faults and refusals. -/
def Obligations.AgcFields : Prop :=
  (∀ (s : State) (size : Byte), configOk s.cfg = true →
    let c := s.cfg
    let w : FieldWrite := ⟨c.reg.agcWin, size, c.mask.agcWin⟩
    (size &&& ~~~c.mask.agcWin ≠ 0 → exec (.agcwin size) s = .next (faulted 3 (size.setWidth 16) s)) ∧
    (size &&& ~~~c.mask.agcWin = 0 →
      (∀ bus dc wrote, fieldDone c w s.bus s.dc bus dc wrote → exec (.agcwin size) s = .next (completed { s with
        agc := { s.agc with winSize := size }, dc := dc, bus := bus })) ∧
      (∀ bus dc, fieldFails c w s.bus s.dc bus dc → exec (.agcwin size) s =
        .next (faulted 1 (c.reg.agcWin.setWidth 16) { s with dc := dc, bus := bus })))) ∧
  (∀ (s : State) (ch code : Byte), configOk s.cfg = true →
    let c := s.cfg
    let mask := if ch = 1 then c.mask.agcMaxgW else c.mask.agcMaxgC
    let val := code.toNat * 2 ^ (if ch = 1 then c.mask.agcMaxgWShift else c.mask.agcMaxgCShift)
    let w : FieldWrite := ⟨c.reg.agcMaxg, BitVec.ofNat 8 val, mask⟩
    let fits := val < 256 ∧ BitVec.ofNat 8 val &&& ~~~mask = 0
    (1 < ch.toNat → exec (.agcmaxg ch code) s = .next (faulted 3 (ch.setWidth 16) s)) ∧
    (ch.toNat ≤ 1 → 13 < code.toNat ∨ ¬ fits → exec (.agcmaxg ch code) s = .next (faulted 3 (code.setWidth 16) s)) ∧
    (ch.toNat ≤ 1 → code.toNat ≤ 13 → fits →
      (∀ bus dc wrote, fieldDone c w s.bus s.dc bus dc wrote → exec (.agcmaxg ch code) s = .next (completed { s with
        agc := { s.agc with
          maxGainC := if ch = 1 then s.agc.maxGainC else BitVec.ofNat 4 code.toNat
          maxGainW := if ch = 1 then BitVec.ofNat 4 code.toNat else s.agc.maxGainW }
        dc := dc, bus := bus })) ∧
      (∀ bus dc, fieldFails c w s.bus s.dc bus dc → exec (.agcmaxg ch code) s =
        .next (faulted 1 (c.reg.agcMaxg.setWidth 16) { s with dc := dc, bus := bus }))))

/-! ### ALS (45_als.md) -/

/-- 45_als.md R203: ALSCALC publishes the sample of its two counts and returns the lux, for every pair below 2^31
(no overflow is reachable); a larger count is refused. With the reference `LUX_AVG_FN` (00_scope.md R6, R13)
the rolling average becomes `asr(avg + lux, 1)`. -/
def Obligations.AlsCalculation : Prop :=
  ∀ s : State, configOk s.cfg = true →
    let c := (s.x[1]).toNat
    let w := (s.x[2]).toNat
    let lux := luxEstimate s.als.coefA.toInt s.als.coefB.toInt c w
    (2 ^ 31 ≤ c ∨ 2 ^ 31 ≤ w → exec .alscalc s = .next (faulted 3 0 s)) ∧
    (c < 2 ^ 31 → w < 2 ^ 31 →
      exec .alscalc s = .next (completed { published c w s with x := s.x.set 0 (BitVec.ofInt 64 lux) }) ∧
      (s.cfg.als.luxAverage = .halfSum →
        (published c w s).als.luxAvg = BitVec.ofInt 64 ((s.als.luxAvg.toInt + lux) / 2)))

/-- 45_als.md R201, R202: ALSSMP reads the 4-byte block, then the status byte, rescales each channel by its scale
(0 doubles, s halves s-1 times) and publishes the sample; a scale above 15 is refused; its transport
faults. That a `BUS_XFER_MAX` below 4 makes it refuse the 4-byte read, as the length check of
40_register_access.md R115 does, is the model's reading (log 26). -/
def Obligations.AlsSample : Prop :=
  ∀ s : State, configOk s.cfg = true →
    let c := s.cfg
    let rescaled (b0 b1 : Byte) (k : Nat) : Nat :=
      let v := b0.toNat + 256 * b1.toNat
      if k = 0 then 2 * v else v / 2 ^ (k - 1)
    (c.bus.xferMax < 4 → exec .alssmp s = .next (faulted 3 4 s)) ∧
    (4 ≤ c.bus.xferMax →
      (∀ b, readFails c s.bus c.reg.alsData 4 b → exec .alssmp s = .next (faulted 1 (c.reg.alsData.setWidth 16)
        { s with dc := countFailure s.dc, bus := b })) ∧
      (∀ r0 r1 r2 r3 b1, readOk c s.bus c.reg.alsData 4 [r0, r1, r2, r3] b1 →
        (∀ b, readFails c b1 c.reg.alsStat 1 b → exec .alssmp s = .next (faulted 1 (c.reg.alsStat.setWidth 16)
          { s with dc := countFailure s.dc, bus := b })) ∧
        (∀ st b2, readOk c b1 c.reg.alsStat 1 [st] b2 →
          let sC := (st &&& c.mask.scaleC).toNat / 2 ^ c.mask.scaleCShift
          let sW := (st &&& c.mask.scaleW).toNat / 2 ^ c.mask.scaleWShift
          let s' : State := { s with dc := noteRead c c.reg.alsStat st s.dc, bus := b2 }
          (15 < sC ∨ 15 < sW → exec .alssmp s = .next (faulted 3 (st.setWidth 16) s')) ∧
          (sC ≤ 15 → sW ≤ 15 →
            let cc := rescaled r0 r1 sC
            let ww := rescaled r2 r3 sW
            exec .alssmp s = .next (completed { published cc ww s' with
              x := s.x.set 0 (BitVec.ofInt 64 (luxEstimate s.als.coefA.toInt s.als.coefB.toInt cc ww)) })))))

/-- 45_als.md R204: ALSEQ takes the gains and the plain averages of the flicker path, publishes the sample and
returns the lux. -/
def Obligations.AlsEquivalent : Prop :=
  ∀ s : State, configOk s.cfg = true →
    let c := s.flk.avgC.toNat
    let w := s.flk.avgW.toNat
    let s' : State := { s with als := { s.als with
      gainC := s.flk.gain.getD s.cfg.flk.modClear 0, gainW := s.flk.gain.getD s.cfg.flk.modWide 0 } }
    exec .alseq s = .next (completed { published c w s' with
      x := s.x.set 0 (BitVec.ofInt 64 (luxEstimate s.als.coefA.toInt s.als.coefB.toInt c w)) })

/-! ### Dispatcher, configuration and results (46_dispatch.md) -/

/-- 46_dispatch.md R216: DISPATCH is passes of: read the status, serve the flicker feature (FLKEST; with result 1
ALSEQ and both update flags), serve the ALS feature (ALSSMP), write back a non-zero status, re-read. After
any number of passes below the cap that re-read non-zero, a pass that re-reads 0 returns and clears the
update flags; a pass of which a step raises ends DISPATCH there, `x` as before and no update flag lost; the
last pass the cap allows, re-reading non-zero, ends with StuckInterrupt. In terms of the bus alone: status 0
at once, and latched bits of features that are off. -/
def Obligations.DispatchServesAndClears : Prop :=
  (∀ s : State, configOk s.cfg = true →
    let limit := match s.cfg.dispatchCap with
      | .passes n => n
      | .unbounded fuel => fuel + 1
    let start : State := { s with dc := { s.dc with phase := .dispatch } }
    let idle (t : State) : State := { t with dc := { t.dc with phase := .idle } }
    (∀ k < limit, ∀ u, unfinishedPasses k start u →
      (∀ t, passReturns u 0 t → exec .dispatch s = .next (completed { t with
        x := s.x.set 0 (BitVec.ofNat 64 t.dc.update.toNat), dc := { t.dc with update := 0, phase := .idle } })) ∧
      (∀ status info t, passRaises u status info t →
        exec .dispatch s = .next (faulted status info (idle t)) ∧ t.x = s.x ∧ s.dc.update &&& ~~~t.dc.update = 0)) ∧
    (∀ n, s.cfg.dispatchCap = .passes n → ∀ u st2 t, unfinishedPasses (n - 1) start u → passReturns u st2 t →
      st2 ≠ 0 → exec .dispatch s = .next (faulted 6 (st2.setWidth 16) (idle t)))) ∧
  (∀ (s : State) (st : Byte) (b1 : Bus), configOk s.cfg = true →
    let c := s.cfg
    readOk c s.bus c.reg.status 1 [st] b1 →
    let dc := noteRead c c.reg.status st s.dc
    (st = 0 → ∀ b2, readOk c b1 c.reg.status 1 [0] b2 → exec .dispatch s = .next (completed { s with
      x := s.x.set 0 (BitVec.ofNat 64 s.dc.update.toNat)
      dc := { noteRead c c.reg.status 0 dc with update := 0, phase := .idle }, bus := b2 })) ∧
    (st ≠ 0 → st &&& c.mask.stFlk = 0 ∨ s.dc.mode.getLsbD 1 = false →
      st &&& c.mask.stAls = 0 ∨ s.dc.mode.getLsbD 0 = false →
      ∀ b2 b3, writeOk c b1 c.reg.status [st] b2 → readOk c b2 c.reg.status 1 [0] b3 →
      exec .dispatch s = .next (completed { s with
        x := s.x.set 0 (BitVec.ofNat 64 s.dc.update.toNat)
        dc := { noteRead c c.reg.status 0 (noteWrite c c.reg.status st dc) with update := 0, phase := .idle }
        bus := b3 })))

/-- 46_dispatch.md R216, 60_exceptions.md R265: with both features off and a device that answers a non-zero status
to every read, DISPATCH makes exactly `DISPATCH_CAP` passes of read, write and read, then raises
StuckInterrupt with that status; `x` and the update flags keep their values. -/
def Obligations.StuckInterruptAfterCap : Prop :=
  ∀ (s : State) (st : Byte) (n draws : Nat) (rest : List BusAnswer), configOk s.cfg = true →
    s.cfg.dispatchCap = .passes n → s.dc.mode = 0 → st ≠ 0 →
    s.bus.dev = .oracle ((List.replicate n [.ok [st], .ok [], .ok [st]]).flatten ++ rest) draws →
    ∃ t, exec .dispatch s = .next t ∧ t.dc.lastErr = 6 ∧ t.dc.update = s.dc.update ∧ t.dc.phase = .idle ∧
      t.x = s.x ∧ t.records = ⟨6, st.setWidth 16⟩ :: s.records ∧
      t.bus.log.length = s.bus.log.length + 3 * n ∧ ∃ draws', t.bus.dev = .oracle rest draws'

/-- 46_dispatch.md R217, 70_reset_and_hazards.md R287, R288: FEATEN re-initialises the feature's context, does the
enabling list in order, then records the mode and the trigger; on a failed transaction the context stays
re-initialised (for ALS with the state INIT, R288; log 20) and the mode stays as it was; its refusals. -/
def Obligations.FeatureEnable : Prop :=
  ∀ (s : State) (feat trig : Byte), s.Legal →
    let c := s.cfg
    let flk := decide (feat = 1)
    let t : Trigger := if trig = 1 then .poll else .int
    let seq := match flk, t with
      | false, .int => c.bus.enAlsInt
      | false, .poll => c.bus.enAlsPoll
      | true, .int => c.bus.enFlkInt
      | true, .poll => c.bus.enFlkPoll
    let ready : State := if feat = 1 then { s with
        flk := { sampleCount := c.flk.sampleCountInit, fifoThreshold := s.flk.fifoThreshold, freq := 0,
                 dataReady := false, gain := c.flk.gainInit, metaEnd := c.flk.metaEndInit,
                 metaGain := c.flk.metaGainInit, metaCsum := c.flk.metaCsumInit, avgC := 0, avgW := 0, normC := 0,
                 normW := 0, thresh := 0, peakBin := 0, peakMag := 0, checksum := 0, endMarker := 0,
                 satf := false }
        buf := { s.buf with ringLen := 0, win := c.winTab } }
      else { s with
        als := { state := .init, rawClear := 0, rawWide := 0, clearCorr := 0, wideCorr := 0, ir := 0, cwRatio := 0,
                 lux := 0, luxAvg := 0, gainC := c.als.gainInitC, gainW := c.als.gainInitW, coefA := c.als.coefA,
                 coefB := c.als.coefB, itime := c.als.itime } }
    (1 < feat.toNat → exec (.featen feat trig) s = .next (faulted 3 (feat.setWidth 16) s)) ∧
    (feat.toNat ≤ 1 → 1 < trig.toNat ∨ (s.dc.mode ≠ 0 ∧ s.dc.trig ≠ t) →
      exec (.featen feat trig) s = .next (faulted 3 (trig.setWidth 16) s)) ∧
    (feat.toNat ≤ 1 → trig.toNat ≤ 1 → s.dc.mode = 0 ∨ s.dc.trig = t →
      (∀ bus dc, burstDone c seq s.bus s.dc bus dc → exec (.featen feat trig) s = .next (completed { ready with
        als := { ready.als with state := if feat = 1 then s.als.state else .rgb }
        dc := { dc with mode := s.dc.mode ||| (if feat = 1 then 2 else 1), trig := t }
        bus := bus })) ∧
      (∀ reg bus dc, burstFails c seq s.bus s.dc reg bus dc → exec (.featen feat trig) s =
        .next (faulted 1 (reg.setWidth 16) { ready with dc := dc, bus := bus })))

/-- 46_dispatch.md R218: FEATDIS does the disabling list in order, then clears the feature's mode bit and nothing
else; its faults and refusal. -/
def Obligations.FeatureDisable : Prop :=
  ∀ (s : State) (feat : Byte), configOk s.cfg = true →
    let c := s.cfg
    let seq := if feat = 1 then c.bus.disFlk else c.bus.disAls
    (1 < feat.toNat → exec (.featdis feat) s = .next (faulted 3 (feat.setWidth 16) s)) ∧
    (feat.toNat ≤ 1 →
      (∀ bus dc, burstDone c seq s.bus s.dc bus dc → exec (.featdis feat) s = .next (completed { s with
        dc := { dc with mode := s.dc.mode &&& (if feat = 1 then 1 else 2) }, bus := bus })) ∧
      (∀ reg bus dc, burstFails c seq s.bus s.dc reg bus dc →
        exec (.featdis feat) s = .next (faulted 1 (reg.setWidth 16) { s with dc := dc, bus := bus })))

/-- 46_dispatch.md R219: SETTHR does the list `THR_WRITES(thr)` in order, then sets the FIFO threshold and empties
the ring; its faults and refusals. The reference list (00_scope.md R13) is the low, then the high byte; every
list consists of setFields that 00_scope.md R7 (j) allows (for a list the configuration leaves free, by the
model's filter, log 6). -/
def Obligations.SetThreshold : Prop :=
  ∀ (s : State) (thr : U16), configOk s.cfg = true →
    let c := s.cfg
    let seq := thrWriteList c thr
    (c.thrWrites = .lowHigh → seq = [⟨c.reg.fifoThr, BitVec.ofNat 8 thr.toNat, 0xFF⟩,
      ⟨c.reg.fifoThrH, BitVec.ofNat 8 (thr.toNat / 256), 0xFF⟩]) ∧
    (∀ w ∈ seq, w.reg.toNat < regMax c ∧ w.val &&& ~~~w.mask = 0) ∧
    (thr = 0 ∨ c.flk.ringMax < thr.toNat → exec (.setthr thr) s = .next (faulted 3 thr s)) ∧
    (thr ≠ 0 → thr.toNat ≤ c.flk.ringMax →
      (∀ bus dc, burstDone c seq s.bus s.dc bus dc → exec (.setthr thr) s = .next (completed { s with
        flk := { s.flk with fifoThreshold := thr, dataReady := false }, buf := { s.buf with ringLen := 0 },
        dc := dc, bus := bus })) ∧
      (∀ reg bus dc, burstFails c seq s.bus s.dc reg bus dc →
        exec (.setthr thr) s = .next (faulted 1 (reg.setWidth 16) { s with dc := dc, bus := bus })))

/-- 46_dispatch.md R220, R221: GETALS and GETFLK return the published results and change nothing else. -/
def Obligations.ResultsAreSnapshots : Prop :=
  ∀ s : State,
    exec .getals s = .next (completed { s with x := #v[
      BitVec.ofNat 64 s.als.clearCorr.toNat, BitVec.ofNat 64 s.als.ir.toNat, BitVec.ofNat 64 s.als.wideCorr.toNat,
      BitVec.ofNat 64 (s.als.gainC.toNat + 256 * s.als.gainW.toNat),
      BitVec.ofNat 64 (s.als.rawClear.toNat + 2 ^ 32 * s.als.rawWide.toNat),
      BitVec.ofNat 64 s.als.itime.toNat, s.als.lux, if s.flk.satf = true then 1 else 0] }) ∧
    exec .getflk s = .next (completed { s with x := s.x.set 0 (BitVec.ofNat 64 s.flk.freq.toNat) })
end

