-- ==== Sys2Proof/Laws/Arith.lean ====
section
/-! SUPPORT. The values of the small bit-vector and integer operations as numbers. -/

namespace Sys2Proof.Machine

theorem le16_toNat (b0 b1 : Byte) : (le16 b0 b1).toNat = b0.toNat + 256 * b1.toNat := by
  have h : (le16 b0 b1).toNat = b1.toNat <<< 8 ||| b0.toNat := BitVec.toNat_append b1 b0
  rw [h, ← Nat.shiftLeft_add_eq_or_of_lt b0.isLt, Nat.shiftLeft_eq]
  omega

theorem lowByte_eq (v : U16) : lowByte v = BitVec.ofNat 8 v.toNat := by
  apply BitVec.eq_of_toNat_eq; simp [lowByte]

theorem highByte_eq (v : U16) : highByte v = BitVec.ofNat 8 (v.toNat / 256) := by
  apply BitVec.eq_of_toNat_eq; simp [highByte, Nat.shiftRight_eq_div_pow]

/-- A value widened with zeros, as a number. -/
theorem setWidth_eq_ofNat {w : Nat} (n : Nat) (v : BitVec w) : v.setWidth n = BitVec.ofNat n v.toNat := by
  apply BitVec.eq_of_toNat_eq; simp

theorem shiftIn_eq (v : U64) (imm : U16) : shiftIn v imm = BitVec.ofNat 64 (v.toNat * 65536 + imm.toNat) := by
  apply BitVec.eq_of_getLsbD_eq
  intro i hi
  have h : v.toNat * 65536 + imm.toNat = v.toNat <<< 16 ||| imm.toNat := by
    rw [← Nat.shiftLeft_add_eq_or_of_lt imm.isLt, Nat.shiftLeft_eq]
  simp only [shiftIn, h, BitVec.getLsbD_or, BitVec.getLsbD_shiftLeft, BitVec.getLsbD_setWidth,
    BitVec.getLsbD_ofNat, Nat.testBit_or, Nat.testBit_shiftLeft, hi, decide_true, Bool.true_and]
  congr 1
  by_cases h : 16 ≤ i
  · have : ¬ i < 16 := by omega
    simp [h, this, BitVec.getLsbD]
  · have : i < 16 := by omega
    simp [h, this]

theorem asr_eq (v : Int) (k : Nat) : asr v k = v / 2 ^ k := by
  unfold asr; rw [Int.shiftRight_eq_div_pow]; norm_cast

theorem fitsI64_iff (v : Int) : fitsI64 v = true ↔ -2 ^ 63 ≤ v ∧ v < 2 ^ 63 := by
  unfold fitsI64; rw [decide_eq_true_iff]; omega

/-- An integer that fits is stored exactly. -/
theorem ofInt_toInt_of_fits {v : Int} (h : fitsI64 v = true) : (BitVec.ofInt 64 v).toInt = v := by
  rw [fitsI64_iff] at h
  rw [BitVec.toInt_ofInt]
  exact Int.bmod_eq_of_le (by omega) (by omega)

end Sys2Proof.Machine
end

