-- ==== Sys2Proof/Laws/Arrays.lean ====
section
/-! SUPPORT. Storing a run of elements in an array: its length, and every element after it. -/

namespace Sys2Proof.Machine

variable {α : Type}

@[simp] theorem overlay_length (l : List α) (i : Nat) (vs : List α) : (overlay l i vs).length = l.length := by
  induction l generalizing i vs with
  | nil => rfl
  | cons x xs ih =>
    cases vs with
    | nil => cases i <;> rfl
    | cons v vs => cases i <;> simp [overlay, ih]

@[simp] theorem overlay_nil (l : List α) (i : Nat) : overlay l i [] = l := by
  cases l with
  | nil => rfl
  | cons x xs => cases i <;> rfl

/-- A run stored from index 0 on that fits. -/
theorem overlay_zero (l vs : List α) (h : vs.length ≤ l.length) : overlay l 0 vs = vs ++ l.drop vs.length := by
  induction vs generalizing l with
  | nil => simp
  | cons v vs ih =>
    cases l with
    | nil => simp at h
    | cons x xs => simp [overlay, ih xs (by simpa using h)]

/-- A run stored from index `i` on that fits. -/
theorem overlay_eq (l : List α) (i : Nat) (vs : List α) (h : i + vs.length ≤ l.length) :
    overlay l i vs = l.take i ++ vs ++ l.drop (i + vs.length) := by
  induction l generalizing i with
  | nil =>
    have : vs = [] := by
      rw [← List.length_eq_zero_iff]
      have h' : i + vs.length ≤ 0 := h
      omega
    subst this
    simp
  | cons x xs ih =>
    cases i with
    | zero => rw [overlay_zero _ _ (by omega)]; simp
    | succ i =>
      cases vs with
      | nil => simp
      | cons v vs =>
        have := ih i (by simp only [List.length_cons] at h ⊢; omega)
        simp only [overlay, this, List.take_succ_cons, List.cons_append]
        congr 2
        rw [Nat.add_right_comm i 1, List.drop_succ_cons]

/-- Element `j` after a run `vs` was stored from index `i` on. -/
theorem overlay_getD (l : List α) (i : Nat) (vs : List α) (j : Nat) (d : α) :
    (overlay l i vs).getD j d =
      if i ≤ j ∧ j < i + vs.length ∧ j < l.length then vs.getD (j - i) d else l.getD j d := by
  induction l generalizing i vs j with
  | nil => simp [overlay]
  | cons x xs ih =>
    cases vs with
    | nil =>
      have : ¬ (i ≤ j ∧ j < i + ([] : List α).length ∧ j < (x :: xs).length) := by simp; omega
      rw [overlay_nil, if_neg this]
    | cons v vs =>
      cases i with
      | zero =>
        cases j with
        | zero => simp [overlay]
        | succ j => have := ih 0 vs j; simp [overlay] at this ⊢; rw [this]
      | succ i =>
        cases j with
        | zero => simp [overlay]
        | succ j =>
          have := ih i (v :: vs) j
          simp only [overlay, List.getD_cons_succ, this, List.length_cons, Nat.add_sub_add_right]
          congr 1
          apply propext
          omega

end Sys2Proof.Machine
end

