-- ==== Sys2Proof/Laws/Memory.lean ====
section
/-! SUPPORT. The laws of the reference device's register memory: a read after a write, and the canonical form. -/

namespace Sys2Proof.Machine

theorem memRead_memCons (a : Nat) (v : Byte) (rest : Memory) (b : Nat) (h : memRead rest a = memDefault) :
    memRead (memCons a v rest) b = if b = a then v else memRead rest b := by
  unfold memCons
  by_cases hv : v = memDefault
  · by_cases hb : b = a
    · subst hb; simp [hv, h]
    · simp [hv, hb]
  · by_cases hb : b = a
    · subst hb; simp [hv, memRead]
    · simp [hv, hb, memRead, Ne.symm hb]

/-- Below the first listed address nothing is listed. -/
theorem memRead_below {lo : Nat} {m : Memory} (h : memWfFrom lo m = true) {a : Nat} (ha : a < lo) :
    memRead m a = memDefault := by
  induction m generalizing lo with
  | nil => rfl
  | cons p rest ih =>
    obtain ⟨k, w⟩ := p
    simp only [memWfFrom, Bool.and_eq_true, decide_eq_true_eq] at h
    have hk : k ≠ a := by omega
    simp only [memRead, if_neg hk]
    exact ih h.2 (by omega)

/-- A read after a write: the value written there, every other address as before. -/
theorem memRead_memWrite {lo : Nat} {m : Memory} (h : memWfFrom lo m = true) (a : Nat) (v : Byte) (b : Nat) :
    memRead (memWrite m a v) b = if b = a then v else memRead m b := by
  induction m generalizing lo with
  | nil => simp only [memWrite]; exact memRead_memCons a v [] b rfl
  | cons p rest ih =>
    obtain ⟨k, w⟩ := p
    have h' := h
    simp only [memWfFrom, Bool.and_eq_true, decide_eq_true_eq] at h
    simp only [memWrite]
    split
    · next hak =>
      exact memRead_memCons a v _ b (memRead_below (lo := k) (by simp_all [memWfFrom]) hak)
    · split
      · next hak =>
        subst hak
        rw [memRead_memCons a v rest b (memRead_below h.2 (Nat.lt_succ_self a))]
        by_cases hb : b = a
        · simp [hb]
        · simp [hb, memRead, Ne.symm hb]
      · next hka hne =>
        simp only [memRead, ih h.2]
        by_cases hb : b = a
        · subst hb; simp [Ne.symm hne]
        · by_cases hk : k = b <;> simp [hb, hk]

theorem memWfFrom_mono {lo lo' : Nat} {m : Memory} (h : memWfFrom lo m = true) (hl : lo' ≤ lo) :
    memWfFrom lo' m = true := by
  cases m with
  | nil => rfl
  | cons p rest =>
    obtain ⟨k, w⟩ := p
    simp only [memWfFrom, Bool.and_eq_true, decide_eq_true_eq] at h ⊢
    exact ⟨⟨⟨by omega, h.1.1.2⟩, h.1.2⟩, h.2⟩

theorem memWfFrom_memCons {lo a : Nat} {v : Byte} {rest : Memory} (hlo : lo ≤ a) (ha : a < memSize)
    (h : memWfFrom (a + 1) rest = true) : memWfFrom lo (memCons a v rest) = true := by
  unfold memCons
  split
  · exact memWfFrom_mono h (by omega)
  · next hv =>
    simp only [memWfFrom, Bool.and_eq_true, decide_eq_true_eq, bne_iff_ne]
    exact ⟨⟨⟨hlo, ha⟩, hv⟩, h⟩

theorem memWfFrom_memWrite {lo a : Nat} {m : Memory} (v : Byte) (h : memWfFrom lo m = true) (hlo : lo ≤ a)
    (ha : a < memSize) : memWfFrom lo (memWrite m a v) = true := by
  induction m generalizing lo with
  | nil => exact memWfFrom_memCons hlo ha rfl
  | cons p rest ih =>
    obtain ⟨k, w⟩ := p
    have h' := h
    simp only [memWfFrom, Bool.and_eq_true, decide_eq_true_eq] at h
    simp only [memWrite]
    split
    · next hak =>
      refine memWfFrom_memCons hlo ha ?_
      simp only [memWfFrom, Bool.and_eq_true, decide_eq_true_eq]
      exact ⟨⟨⟨by omega, h.1.1.2⟩, h.1.2⟩, h.2⟩
    · split
      · next hak => subst hak; exact memWfFrom_memCons hlo ha h.2
      · simp only [memWfFrom, Bool.and_eq_true, decide_eq_true_eq]
        exact ⟨⟨⟨h.1.1.1, h.1.1.2⟩, h.1.2⟩, ih h.2 (by omega)⟩

/-- A write keeps the canonical form. -/
theorem memWf_memWrite {m : Memory} (h : memWf m = true) {a : Nat} (ha : a < memSize) (v : Byte) :
    memWf (memWrite m a v) = true := memWfFrom_memWrite v h (Nat.zero_le a) ha

/-- A read after a write, in a memory of canonical form. -/
theorem memRead_after_memWrite {m : Memory} (h : memWf m = true) (a : Nat) (v : Byte) (b : Nat) :
    memRead (memWrite m a v) b = if b = a then v else memRead m b := memRead_memWrite h a v b

end Sys2Proof.Machine
end

