-- ==== Sys2Proof/Laws/Proc.lean ====
section
/-! SUPPORT. How procedures run: one equation for each way of building a `Proc`, and relations between the
state before and after that every procedure built from keeping parts keeps. -/

namespace Sys2Proof.Machine

variable {α β : Type}

@[simp] theorem pure_run (a : α) (s : State) : (pure a : Proc α) s = .ok a s := rfl
@[simp] theorem look_run (f : State → α) (s : State) : look f s = .ok (f s) s := rfl
@[simp] theorem update_run (f : State → State) (s : State) : update f s = .ok () (f s) := rfl
@[simp] theorem raise_run (code : FaultCode) (info : U16) (s : State) :
    (raise code info : Proc α) s = .error ⟨code, info⟩ s := rfl

@[simp] theorem bind_look (f : State → α) (k : α → Proc β) (s : State) :
    (look f >>= k) s = k (f s) s := rfl
@[simp] theorem bind_update (f : State → State) (k : Unit → Proc β) (s : State) :
    (update f >>= k) s = k () (f s) := rfl
@[simp] theorem bind_pure_run (a : α) (k : α → Proc β) (s : State) :
    ((pure a : Proc α) >>= k) s = k a s := rfl
@[simp] theorem bind_raise (code : FaultCode) (info : U16) (k : α → Proc β) (s : State) :
    ((raise code info : Proc α) >>= k) s = .error ⟨code, info⟩ s := rfl

/-- Everything a sequence of two procedures can do. -/
theorem bind_run (p : Proc α) (k : α → Proc β) (s : State) :
    (p >>= k) s = match p s with
      | .ok a t => k a t
      | .error e t => .error e t := by
  change EStateM.bind p k s = _
  unfold EStateM.bind
  cases p s <;> rfl

theorem bind_of_ok {p : Proc α} {a : α} {s t : State} (h : p s = .ok a t) (k : α → Proc β) :
    (p >>= k) s = k a t := by simp [bind_run, h]

theorem bind_of_error {p : Proc α} {e : Raised} {s t : State} (h : p s = .error e t) (k : α → Proc β) :
    (p >>= k) s = .error e t := by simp [bind_run, h]

/-- A sequence that returns: both parts return. -/
theorem bind_eq_ok {p : Proc α} {k : α → Proc β} {s t : State} {b : β} :
    (p >>= k) s = .ok b t ↔ ∃ a u, p s = .ok a u ∧ k a u = .ok b t := by
  rw [bind_run]; cases p s <;> simp

/-- A sequence that raises: one of the two parts does. -/
theorem bind_eq_error {p : Proc α} {k : α → Proc β} {s t : State} {e : Raised} :
    (p >>= k) s = .error e t ↔ p s = .error e t ∨ ∃ a u, p s = .ok a u ∧ k a u = .error e t := by
  rw [bind_run]; cases p s <;> simp

theorem require_run (ok : Bool) (info : U16) (s : State) :
    require ok info s = if ok then .ok () s else .error ⟨.preconditionViolation, info⟩ s := by
  cases ok <;> rfl

@[simp] theorem bind_require_true (info : U16) (k : Unit → Proc β) (s : State) :
    (require true info >>= k) s = k () s := rfl
@[simp] theorem bind_require_false (info : U16) (k : Unit → Proc β) (s : State) :
    (require false info >>= k) s = .error ⟨.preconditionViolation, info⟩ s := rfl

@[simp] theorem onlyIf_true (p : Proc Unit) : onlyIf true p = p := rfl
@[simp] theorem onlyIf_false (p : Proc Unit) : onlyIf false p = pure () := rfl

theorem complete_of_ok {p : Proc Unit} {s t : State} (h : p s = .ok () t) :
    complete p s = .next (endOperation 0 0 t) := by simp [complete, finish, h]

theorem complete_of_error {p : Proc Unit} {e : Raised} {s t : State} (h : p s = .error e t) :
    complete p s = .next (endOperation (statusOf e.code) e.info t) := by simp [complete, finish, h]

/-- The state a procedure leaves, whether it returns or raises. -/
def left : EStateM.Result Raised State α → State
  | .ok _ t => t
  | .error _ t => t

@[simp] theorem left_ok (a : α) (t : State) : left (.ok a t : EStateM.Result Raised State α) = t := rfl
@[simp] theorem left_error (e : Raised) (t : State) :
    left (.error e t : EStateM.Result Raised State α) = t := rfl

/-- Everything the ending of an operation can do: status 0, or the status of the fault raised. -/
theorem finish_cases (r : EStateM.Result Raised State Unit) :
    ∃ st info, finish r = endOperation st info (left r) ∧
      (st = 0 ∨ ∃ code, st = statusOf code) := by
  cases r with
  | ok a t => exact ⟨0, 0, rfl, .inl rfl⟩
  | error e t => exact ⟨_, _, rfl, .inr ⟨e.code, rfl⟩⟩

/-- The procedure relates the state before it to the state it leaves, however it ends. -/
def Keeps (R : State → State → Prop) (p : Proc α) : Prop := ∀ s, R s (left (p s))

variable {R : State → State → Prop}

theorem keeps_of_eq {p : Proc α} (hr : ∀ s, R s s) (h : ∀ s, left (p s) = s) : Keeps R p := fun s => by
  rw [h s]; exact hr s

theorem keeps_pure (hr : ∀ s, R s s) (a : α) : Keeps R (pure a : Proc α) := keeps_of_eq hr fun _ => rfl
theorem keeps_look (hr : ∀ s, R s s) (f : State → α) : Keeps R (look f) := keeps_of_eq hr fun _ => rfl
theorem keeps_raise (hr : ∀ s, R s s) (code : FaultCode) (info : U16) :
    Keeps R (raise code info : Proc α) := keeps_of_eq hr fun _ => rfl
theorem keeps_require (hr : ∀ s, R s s) (ok : Bool) (info : U16) : Keeps R (require ok info) :=
  keeps_of_eq hr fun s => by rw [require_run]; cases ok <;> rfl
theorem keeps_update {f : State → State} (h : ∀ s, R s (f s)) : Keeps R (update f) := h

theorem keeps_bind (ht : ∀ s t u, R s t → R t u → R s u) {p : Proc α} {k : α → Proc β}
    (hp : Keeps R p) (hk : ∀ a, Keeps R (k a)) : Keeps R (p >>= k) := fun s => by
  have h := hp s
  rw [bind_run]
  cases hps : p s with
  | ok a t => rw [hps] at h; exact ht _ _ _ h (hk a t)
  | error e t => rw [hps] at h; exact h

/-- A read of the state followed by what depends on it: the value may be used in the proof. -/
theorem keeps_look_bind {f : State → α} {k : α → Proc β} (h : ∀ s, R s (left (k (f s) s))) :
    Keeps R (look f >>= k) := h

theorem keeps_onlyIf (hr : ∀ s, R s s) (c : Bool) {p : Proc Unit} (hp : Keeps R p) : Keeps R (onlyIf c p) := by
  cases c
  · exact keeps_pure hr ()
  · exact hp

theorem keeps_ite (c : Prop) [Decidable c] {p q : Proc α} (hp : Keeps R p) (hq : Keeps R q) :
    Keeps R (if c then p else q) := by
  split
  · exact hp
  · exact hq

end Sys2Proof.Machine
end

