-- ==== Sys2Proof/Laws/State.lean ====
section
/-! SUPPORT. What each named change of the state does to each field of it: one lemma per field, true by
definition, so that no later proof unfolds a record update. -/

namespace Sys2Proof.Machine

@[simp] theorem setX_cfg (r : Nat) (v : U64) (s : State) : (setX r v s).cfg = s.cfg := rfl
@[simp] theorem setX_attached (r : Nat) (v : U64) (s : State) : (setX r v s).attached = s.attached := rfl
@[simp] theorem setX_pc (r : Nat) (v : U64) (s : State) : (setX r v s).pc = s.pc := rfl
@[simp] theorem setX_dc (r : Nat) (v : U64) (s : State) : (setX r v s).dc = s.dc := rfl
@[simp] theorem setX_agc (r : Nat) (v : U64) (s : State) : (setX r v s).agc = s.agc := rfl
@[simp] theorem setX_flk (r : Nat) (v : U64) (s : State) : (setX r v s).flk = s.flk := rfl
@[simp] theorem setX_als (r : Nat) (v : U64) (s : State) : (setX r v s).als = s.als := rfl
@[simp] theorem setX_buf (r : Nat) (v : U64) (s : State) : (setX r v s).buf = s.buf := rfl
@[simp] theorem setX_bus (r : Nat) (v : U64) (s : State) : (setX r v s).bus = s.bus := rfl
@[simp] theorem setX_records (r : Nat) (v : U64) (s : State) : (setX r v s).records = s.records := rfl
@[simp] theorem setX_inbox (r : Nat) (v : U64) (s : State) : (setX r v s).inbox = s.inbox := rfl

@[simp] theorem endOperation_cfg (st : Byte) (info : U16) (s : State) : (endOperation st info s).cfg = s.cfg := rfl
@[simp] theorem endOperation_attached (st : Byte) (info : U16) (s : State) : (endOperation st info s).attached = s.attached := rfl
@[simp] theorem endOperation_x (st : Byte) (info : U16) (s : State) : (endOperation st info s).x = s.x := rfl
@[simp] theorem endOperation_dc_phase (st : Byte) (info : U16) (s : State) : (endOperation st info s).dc.phase = s.dc.phase := rfl
@[simp] theorem endOperation_dc_mode (st : Byte) (info : U16) (s : State) : (endOperation st info s).dc.mode = s.dc.mode := rfl
@[simp] theorem endOperation_dc_trig (st : Byte) (info : U16) (s : State) : (endOperation st info s).dc.trig = s.dc.trig := rfl
@[simp] theorem endOperation_dc_variant (st : Byte) (info : U16) (s : State) : (endOperation st info s).dc.variant = s.dc.variant := rfl
@[simp] theorem endOperation_dc_shEnable (st : Byte) (info : U16) (s : State) : (endOperation st info s).dc.shEnable = s.dc.shEnable := rfl
@[simp] theorem endOperation_dc_shIntenab (st : Byte) (info : U16) (s : State) : (endOperation st info s).dc.shIntenab = s.dc.shIntenab := rfl
@[simp] theorem endOperation_dc_shStatus (st : Byte) (info : U16) (s : State) : (endOperation st info s).dc.shStatus = s.dc.shStatus := rfl
@[simp] theorem endOperation_dc_update (st : Byte) (info : U16) (s : State) : (endOperation st info s).dc.update = s.dc.update := rfl
@[simp] theorem endOperation_dc_errcnt (st : Byte) (info : U16) (s : State) : (endOperation st info s).dc.errcnt = s.dc.errcnt := rfl
@[simp] theorem endOperation_agc (st : Byte) (info : U16) (s : State) : (endOperation st info s).agc = s.agc := rfl
@[simp] theorem endOperation_flk (st : Byte) (info : U16) (s : State) : (endOperation st info s).flk = s.flk := rfl
@[simp] theorem endOperation_als (st : Byte) (info : U16) (s : State) : (endOperation st info s).als = s.als := rfl
@[simp] theorem endOperation_buf (st : Byte) (info : U16) (s : State) : (endOperation st info s).buf = s.buf := rfl
@[simp] theorem endOperation_bus (st : Byte) (info : U16) (s : State) : (endOperation st info s).bus = s.bus := rfl
@[simp] theorem endOperation_inbox (st : Byte) (info : U16) (s : State) : (endOperation st info s).inbox = s.inbox := rfl

@[simp] theorem refuseBusy_cfg (s : State) : (refuseBusy s).cfg = s.cfg := rfl
@[simp] theorem refuseBusy_attached (s : State) : (refuseBusy s).attached = s.attached := rfl
@[simp] theorem refuseBusy_x (s : State) : (refuseBusy s).x = s.x := rfl
@[simp] theorem refuseBusy_pc (s : State) : (refuseBusy s).pc = s.pc := rfl
@[simp] theorem refuseBusy_dc_phase (s : State) : (refuseBusy s).dc.phase = s.dc.phase := rfl
@[simp] theorem refuseBusy_dc_mode (s : State) : (refuseBusy s).dc.mode = s.dc.mode := rfl
@[simp] theorem refuseBusy_dc_trig (s : State) : (refuseBusy s).dc.trig = s.dc.trig := rfl
@[simp] theorem refuseBusy_dc_variant (s : State) : (refuseBusy s).dc.variant = s.dc.variant := rfl
@[simp] theorem refuseBusy_dc_shEnable (s : State) : (refuseBusy s).dc.shEnable = s.dc.shEnable := rfl
@[simp] theorem refuseBusy_dc_shIntenab (s : State) : (refuseBusy s).dc.shIntenab = s.dc.shIntenab := rfl
@[simp] theorem refuseBusy_dc_shStatus (s : State) : (refuseBusy s).dc.shStatus = s.dc.shStatus := rfl
@[simp] theorem refuseBusy_dc_update (s : State) : (refuseBusy s).dc.update = s.dc.update := rfl
@[simp] theorem refuseBusy_dc_errcnt (s : State) : (refuseBusy s).dc.errcnt = s.dc.errcnt := rfl
@[simp] theorem refuseBusy_dc_lastErr (s : State) : (refuseBusy s).dc.lastErr = s.dc.lastErr := rfl
@[simp] theorem refuseBusy_agc (s : State) : (refuseBusy s).agc = s.agc := rfl
@[simp] theorem refuseBusy_flk (s : State) : (refuseBusy s).flk = s.flk := rfl
@[simp] theorem refuseBusy_als (s : State) : (refuseBusy s).als = s.als := rfl
@[simp] theorem refuseBusy_buf (s : State) : (refuseBusy s).buf = s.buf := rfl
@[simp] theorem refuseBusy_bus (s : State) : (refuseBusy s).bus = s.bus := rfl
@[simp] theorem refuseBusy_inbox (s : State) : (refuseBusy s).inbox = s.inbox := rfl

@[simp] theorem countError_cfg (s : State) : (countError s).cfg = s.cfg := rfl
@[simp] theorem countError_attached (s : State) : (countError s).attached = s.attached := rfl
@[simp] theorem countError_x (s : State) : (countError s).x = s.x := rfl
@[simp] theorem countError_pc (s : State) : (countError s).pc = s.pc := rfl
@[simp] theorem countError_dc_phase (s : State) : (countError s).dc.phase = s.dc.phase := rfl
@[simp] theorem countError_dc_mode (s : State) : (countError s).dc.mode = s.dc.mode := rfl
@[simp] theorem countError_dc_trig (s : State) : (countError s).dc.trig = s.dc.trig := rfl
@[simp] theorem countError_dc_variant (s : State) : (countError s).dc.variant = s.dc.variant := rfl
@[simp] theorem countError_dc_shEnable (s : State) : (countError s).dc.shEnable = s.dc.shEnable := rfl
@[simp] theorem countError_dc_shIntenab (s : State) : (countError s).dc.shIntenab = s.dc.shIntenab := rfl
@[simp] theorem countError_dc_shStatus (s : State) : (countError s).dc.shStatus = s.dc.shStatus := rfl
@[simp] theorem countError_dc_update (s : State) : (countError s).dc.update = s.dc.update := rfl
@[simp] theorem countError_dc_lastErr (s : State) : (countError s).dc.lastErr = s.dc.lastErr := rfl
@[simp] theorem countError_dc_faults (s : State) : (countError s).dc.faults = s.dc.faults := rfl
@[simp] theorem countError_agc (s : State) : (countError s).agc = s.agc := rfl
@[simp] theorem countError_flk (s : State) : (countError s).flk = s.flk := rfl
@[simp] theorem countError_als (s : State) : (countError s).als = s.als := rfl
@[simp] theorem countError_buf (s : State) : (countError s).buf = s.buf := rfl
@[simp] theorem countError_bus (s : State) : (countError s).bus = s.bus := rfl
@[simp] theorem countError_records (s : State) : (countError s).records = s.records := rfl
@[simp] theorem countError_inbox (s : State) : (countError s).inbox = s.inbox := rfl

@[simp] theorem shadowRead_cfg (reg v : Byte) (s : State) : (shadowRead reg v s).cfg = s.cfg := rfl
@[simp] theorem shadowRead_attached (reg v : Byte) (s : State) : (shadowRead reg v s).attached = s.attached := rfl
@[simp] theorem shadowRead_x (reg v : Byte) (s : State) : (shadowRead reg v s).x = s.x := rfl
@[simp] theorem shadowRead_pc (reg v : Byte) (s : State) : (shadowRead reg v s).pc = s.pc := rfl
@[simp] theorem shadowRead_dc_phase (reg v : Byte) (s : State) : (shadowRead reg v s).dc.phase = s.dc.phase := rfl
@[simp] theorem shadowRead_dc_mode (reg v : Byte) (s : State) : (shadowRead reg v s).dc.mode = s.dc.mode := rfl
@[simp] theorem shadowRead_dc_trig (reg v : Byte) (s : State) : (shadowRead reg v s).dc.trig = s.dc.trig := rfl
@[simp] theorem shadowRead_dc_variant (reg v : Byte) (s : State) : (shadowRead reg v s).dc.variant = s.dc.variant := rfl
@[simp] theorem shadowRead_dc_update (reg v : Byte) (s : State) : (shadowRead reg v s).dc.update = s.dc.update := rfl
@[simp] theorem shadowRead_dc_errcnt (reg v : Byte) (s : State) : (shadowRead reg v s).dc.errcnt = s.dc.errcnt := rfl
@[simp] theorem shadowRead_dc_lastErr (reg v : Byte) (s : State) : (shadowRead reg v s).dc.lastErr = s.dc.lastErr := rfl
@[simp] theorem shadowRead_dc_faults (reg v : Byte) (s : State) : (shadowRead reg v s).dc.faults = s.dc.faults := rfl
@[simp] theorem shadowRead_agc (reg v : Byte) (s : State) : (shadowRead reg v s).agc = s.agc := rfl
@[simp] theorem shadowRead_flk (reg v : Byte) (s : State) : (shadowRead reg v s).flk = s.flk := rfl
@[simp] theorem shadowRead_als (reg v : Byte) (s : State) : (shadowRead reg v s).als = s.als := rfl
@[simp] theorem shadowRead_buf (reg v : Byte) (s : State) : (shadowRead reg v s).buf = s.buf := rfl
@[simp] theorem shadowRead_bus (reg v : Byte) (s : State) : (shadowRead reg v s).bus = s.bus := rfl
@[simp] theorem shadowRead_records (reg v : Byte) (s : State) : (shadowRead reg v s).records = s.records := rfl
@[simp] theorem shadowRead_inbox (reg v : Byte) (s : State) : (shadowRead reg v s).inbox = s.inbox := rfl

@[simp] theorem shadowWrite_cfg (reg v : Byte) (s : State) : (shadowWrite reg v s).cfg = s.cfg := rfl
@[simp] theorem shadowWrite_attached (reg v : Byte) (s : State) : (shadowWrite reg v s).attached = s.attached := rfl
@[simp] theorem shadowWrite_x (reg v : Byte) (s : State) : (shadowWrite reg v s).x = s.x := rfl
@[simp] theorem shadowWrite_pc (reg v : Byte) (s : State) : (shadowWrite reg v s).pc = s.pc := rfl
@[simp] theorem shadowWrite_dc_phase (reg v : Byte) (s : State) : (shadowWrite reg v s).dc.phase = s.dc.phase := rfl
@[simp] theorem shadowWrite_dc_mode (reg v : Byte) (s : State) : (shadowWrite reg v s).dc.mode = s.dc.mode := rfl
@[simp] theorem shadowWrite_dc_trig (reg v : Byte) (s : State) : (shadowWrite reg v s).dc.trig = s.dc.trig := rfl
@[simp] theorem shadowWrite_dc_variant (reg v : Byte) (s : State) : (shadowWrite reg v s).dc.variant = s.dc.variant := rfl
@[simp] theorem shadowWrite_dc_shStatus (reg v : Byte) (s : State) : (shadowWrite reg v s).dc.shStatus = s.dc.shStatus := rfl
@[simp] theorem shadowWrite_dc_update (reg v : Byte) (s : State) : (shadowWrite reg v s).dc.update = s.dc.update := rfl
@[simp] theorem shadowWrite_dc_errcnt (reg v : Byte) (s : State) : (shadowWrite reg v s).dc.errcnt = s.dc.errcnt := rfl
@[simp] theorem shadowWrite_dc_lastErr (reg v : Byte) (s : State) : (shadowWrite reg v s).dc.lastErr = s.dc.lastErr := rfl
@[simp] theorem shadowWrite_dc_faults (reg v : Byte) (s : State) : (shadowWrite reg v s).dc.faults = s.dc.faults := rfl
@[simp] theorem shadowWrite_agc (reg v : Byte) (s : State) : (shadowWrite reg v s).agc = s.agc := rfl
@[simp] theorem shadowWrite_flk (reg v : Byte) (s : State) : (shadowWrite reg v s).flk = s.flk := rfl
@[simp] theorem shadowWrite_als (reg v : Byte) (s : State) : (shadowWrite reg v s).als = s.als := rfl
@[simp] theorem shadowWrite_buf (reg v : Byte) (s : State) : (shadowWrite reg v s).buf = s.buf := rfl
@[simp] theorem shadowWrite_bus (reg v : Byte) (s : State) : (shadowWrite reg v s).bus = s.bus := rfl
@[simp] theorem shadowWrite_records (reg v : Byte) (s : State) : (shadowWrite reg v s).records = s.records := rfl
@[simp] theorem shadowWrite_inbox (reg v : Byte) (s : State) : (shadowWrite reg v s).inbox = s.inbox := rfl

@[simp] theorem raiseUpdate_cfg (u : BitVec 2) (s : State) : (raiseUpdate u s).cfg = s.cfg := rfl
@[simp] theorem raiseUpdate_attached (u : BitVec 2) (s : State) : (raiseUpdate u s).attached = s.attached := rfl
@[simp] theorem raiseUpdate_x (u : BitVec 2) (s : State) : (raiseUpdate u s).x = s.x := rfl
@[simp] theorem raiseUpdate_pc (u : BitVec 2) (s : State) : (raiseUpdate u s).pc = s.pc := rfl
@[simp] theorem raiseUpdate_dc_phase (u : BitVec 2) (s : State) : (raiseUpdate u s).dc.phase = s.dc.phase := rfl
@[simp] theorem raiseUpdate_dc_mode (u : BitVec 2) (s : State) : (raiseUpdate u s).dc.mode = s.dc.mode := rfl
@[simp] theorem raiseUpdate_dc_trig (u : BitVec 2) (s : State) : (raiseUpdate u s).dc.trig = s.dc.trig := rfl
@[simp] theorem raiseUpdate_dc_variant (u : BitVec 2) (s : State) : (raiseUpdate u s).dc.variant = s.dc.variant := rfl
@[simp] theorem raiseUpdate_dc_shEnable (u : BitVec 2) (s : State) : (raiseUpdate u s).dc.shEnable = s.dc.shEnable := rfl
@[simp] theorem raiseUpdate_dc_shIntenab (u : BitVec 2) (s : State) : (raiseUpdate u s).dc.shIntenab = s.dc.shIntenab := rfl
@[simp] theorem raiseUpdate_dc_shStatus (u : BitVec 2) (s : State) : (raiseUpdate u s).dc.shStatus = s.dc.shStatus := rfl
@[simp] theorem raiseUpdate_dc_errcnt (u : BitVec 2) (s : State) : (raiseUpdate u s).dc.errcnt = s.dc.errcnt := rfl
@[simp] theorem raiseUpdate_dc_lastErr (u : BitVec 2) (s : State) : (raiseUpdate u s).dc.lastErr = s.dc.lastErr := rfl
@[simp] theorem raiseUpdate_dc_faults (u : BitVec 2) (s : State) : (raiseUpdate u s).dc.faults = s.dc.faults := rfl
@[simp] theorem raiseUpdate_agc (u : BitVec 2) (s : State) : (raiseUpdate u s).agc = s.agc := rfl
@[simp] theorem raiseUpdate_flk (u : BitVec 2) (s : State) : (raiseUpdate u s).flk = s.flk := rfl
@[simp] theorem raiseUpdate_als (u : BitVec 2) (s : State) : (raiseUpdate u s).als = s.als := rfl
@[simp] theorem raiseUpdate_buf (u : BitVec 2) (s : State) : (raiseUpdate u s).buf = s.buf := rfl
@[simp] theorem raiseUpdate_bus (u : BitVec 2) (s : State) : (raiseUpdate u s).bus = s.bus := rfl
@[simp] theorem raiseUpdate_records (u : BitVec 2) (s : State) : (raiseUpdate u s).records = s.records := rfl
@[simp] theorem raiseUpdate_inbox (u : BitVec 2) (s : State) : (raiseUpdate u s).inbox = s.inbox := rfl

@[simp] theorem setPhase_cfg (p : Phase) (s : State) : (setPhase p s).cfg = s.cfg := rfl
@[simp] theorem setPhase_attached (p : Phase) (s : State) : (setPhase p s).attached = s.attached := rfl
@[simp] theorem setPhase_x (p : Phase) (s : State) : (setPhase p s).x = s.x := rfl
@[simp] theorem setPhase_pc (p : Phase) (s : State) : (setPhase p s).pc = s.pc := rfl
@[simp] theorem setPhase_dc_mode (p : Phase) (s : State) : (setPhase p s).dc.mode = s.dc.mode := rfl
@[simp] theorem setPhase_dc_trig (p : Phase) (s : State) : (setPhase p s).dc.trig = s.dc.trig := rfl
@[simp] theorem setPhase_dc_variant (p : Phase) (s : State) : (setPhase p s).dc.variant = s.dc.variant := rfl
@[simp] theorem setPhase_dc_shEnable (p : Phase) (s : State) : (setPhase p s).dc.shEnable = s.dc.shEnable := rfl
@[simp] theorem setPhase_dc_shIntenab (p : Phase) (s : State) : (setPhase p s).dc.shIntenab = s.dc.shIntenab := rfl
@[simp] theorem setPhase_dc_shStatus (p : Phase) (s : State) : (setPhase p s).dc.shStatus = s.dc.shStatus := rfl
@[simp] theorem setPhase_dc_update (p : Phase) (s : State) : (setPhase p s).dc.update = s.dc.update := rfl
@[simp] theorem setPhase_dc_errcnt (p : Phase) (s : State) : (setPhase p s).dc.errcnt = s.dc.errcnt := rfl
@[simp] theorem setPhase_dc_lastErr (p : Phase) (s : State) : (setPhase p s).dc.lastErr = s.dc.lastErr := rfl
@[simp] theorem setPhase_dc_faults (p : Phase) (s : State) : (setPhase p s).dc.faults = s.dc.faults := rfl
@[simp] theorem setPhase_agc (p : Phase) (s : State) : (setPhase p s).agc = s.agc := rfl
@[simp] theorem setPhase_flk (p : Phase) (s : State) : (setPhase p s).flk = s.flk := rfl
@[simp] theorem setPhase_als (p : Phase) (s : State) : (setPhase p s).als = s.als := rfl
@[simp] theorem setPhase_buf (p : Phase) (s : State) : (setPhase p s).buf = s.buf := rfl
@[simp] theorem setPhase_bus (p : Phase) (s : State) : (setPhase p s).bus = s.bus := rfl
@[simp] theorem setPhase_records (p : Phase) (s : State) : (setPhase p s).records = s.records := rfl
@[simp] theorem setPhase_inbox (p : Phase) (s : State) : (setPhase p s).inbox = s.inbox := rfl

@[simp] theorem emptyRing_cfg (s : State) : (emptyRing s).cfg = s.cfg := rfl
@[simp] theorem emptyRing_attached (s : State) : (emptyRing s).attached = s.attached := rfl
@[simp] theorem emptyRing_x (s : State) : (emptyRing s).x = s.x := rfl
@[simp] theorem emptyRing_pc (s : State) : (emptyRing s).pc = s.pc := rfl
@[simp] theorem emptyRing_dc (s : State) : (emptyRing s).dc = s.dc := rfl
@[simp] theorem emptyRing_agc (s : State) : (emptyRing s).agc = s.agc := rfl
@[simp] theorem emptyRing_flk_sampleCount (s : State) : (emptyRing s).flk.sampleCount = s.flk.sampleCount := rfl
@[simp] theorem emptyRing_flk_fifoThreshold (s : State) : (emptyRing s).flk.fifoThreshold = s.flk.fifoThreshold := rfl
@[simp] theorem emptyRing_flk_freq (s : State) : (emptyRing s).flk.freq = s.flk.freq := rfl
@[simp] theorem emptyRing_flk_gain (s : State) : (emptyRing s).flk.gain = s.flk.gain := rfl
@[simp] theorem emptyRing_flk_metaEnd (s : State) : (emptyRing s).flk.metaEnd = s.flk.metaEnd := rfl
@[simp] theorem emptyRing_flk_metaGain (s : State) : (emptyRing s).flk.metaGain = s.flk.metaGain := rfl
@[simp] theorem emptyRing_flk_metaCsum (s : State) : (emptyRing s).flk.metaCsum = s.flk.metaCsum := rfl
@[simp] theorem emptyRing_flk_avgC (s : State) : (emptyRing s).flk.avgC = s.flk.avgC := rfl
@[simp] theorem emptyRing_flk_avgW (s : State) : (emptyRing s).flk.avgW = s.flk.avgW := rfl
@[simp] theorem emptyRing_flk_normC (s : State) : (emptyRing s).flk.normC = s.flk.normC := rfl
@[simp] theorem emptyRing_flk_normW (s : State) : (emptyRing s).flk.normW = s.flk.normW := rfl
@[simp] theorem emptyRing_flk_thresh (s : State) : (emptyRing s).flk.thresh = s.flk.thresh := rfl
@[simp] theorem emptyRing_flk_peakBin (s : State) : (emptyRing s).flk.peakBin = s.flk.peakBin := rfl
@[simp] theorem emptyRing_flk_peakMag (s : State) : (emptyRing s).flk.peakMag = s.flk.peakMag := rfl
@[simp] theorem emptyRing_flk_checksum (s : State) : (emptyRing s).flk.checksum = s.flk.checksum := rfl
@[simp] theorem emptyRing_flk_endMarker (s : State) : (emptyRing s).flk.endMarker = s.flk.endMarker := rfl
@[simp] theorem emptyRing_flk_satf (s : State) : (emptyRing s).flk.satf = s.flk.satf := rfl
@[simp] theorem emptyRing_als (s : State) : (emptyRing s).als = s.als := rfl
@[simp] theorem emptyRing_buf_ring (s : State) : (emptyRing s).buf.ring = s.buf.ring := rfl
@[simp] theorem emptyRing_buf_clear (s : State) : (emptyRing s).buf.clear = s.buf.clear := rfl
@[simp] theorem emptyRing_buf_wide (s : State) : (emptyRing s).buf.wide = s.buf.wide := rfl
@[simp] theorem emptyRing_buf_re (s : State) : (emptyRing s).buf.re = s.buf.re := rfl
@[simp] theorem emptyRing_buf_im (s : State) : (emptyRing s).buf.im = s.buf.im := rfl
@[simp] theorem emptyRing_buf_mag (s : State) : (emptyRing s).buf.mag = s.buf.mag := rfl
@[simp] theorem emptyRing_buf_win (s : State) : (emptyRing s).buf.win = s.buf.win := rfl
@[simp] theorem emptyRing_buf_xfer (s : State) : (emptyRing s).buf.xfer = s.buf.xfer := rfl
@[simp] theorem emptyRing_bus (s : State) : (emptyRing s).bus = s.bus := rfl
@[simp] theorem emptyRing_records (s : State) : (emptyRing s).records = s.records := rfl
@[simp] theorem emptyRing_inbox (s : State) : (emptyRing s).inbox = s.inbox := rfl

@[simp] theorem appendRing_cfg (l : List Byte) (s : State) : (appendRing l s).cfg = s.cfg := rfl
@[simp] theorem appendRing_attached (l : List Byte) (s : State) : (appendRing l s).attached = s.attached := rfl
@[simp] theorem appendRing_x (l : List Byte) (s : State) : (appendRing l s).x = s.x := rfl
@[simp] theorem appendRing_pc (l : List Byte) (s : State) : (appendRing l s).pc = s.pc := rfl
@[simp] theorem appendRing_dc (l : List Byte) (s : State) : (appendRing l s).dc = s.dc := rfl
@[simp] theorem appendRing_agc (l : List Byte) (s : State) : (appendRing l s).agc = s.agc := rfl
@[simp] theorem appendRing_flk (l : List Byte) (s : State) : (appendRing l s).flk = s.flk := rfl
@[simp] theorem appendRing_als (l : List Byte) (s : State) : (appendRing l s).als = s.als := rfl
@[simp] theorem appendRing_buf_clear (l : List Byte) (s : State) : (appendRing l s).buf.clear = s.buf.clear := rfl
@[simp] theorem appendRing_buf_wide (l : List Byte) (s : State) : (appendRing l s).buf.wide = s.buf.wide := rfl
@[simp] theorem appendRing_buf_re (l : List Byte) (s : State) : (appendRing l s).buf.re = s.buf.re := rfl
@[simp] theorem appendRing_buf_im (l : List Byte) (s : State) : (appendRing l s).buf.im = s.buf.im := rfl
@[simp] theorem appendRing_buf_mag (l : List Byte) (s : State) : (appendRing l s).buf.mag = s.buf.mag := rfl
@[simp] theorem appendRing_buf_win (l : List Byte) (s : State) : (appendRing l s).buf.win = s.buf.win := rfl
@[simp] theorem appendRing_buf_xfer (l : List Byte) (s : State) : (appendRing l s).buf.xfer = s.buf.xfer := rfl
@[simp] theorem appendRing_bus (l : List Byte) (s : State) : (appendRing l s).bus = s.bus := rfl
@[simp] theorem appendRing_records (l : List Byte) (s : State) : (appendRing l s).records = s.records := rfl
@[simp] theorem appendRing_inbox (l : List Byte) (s : State) : (appendRing l s).inbox = s.inbox := rfl

@[simp] theorem markReady_cfg (s : State) : (markReady s).cfg = s.cfg := rfl
@[simp] theorem markReady_attached (s : State) : (markReady s).attached = s.attached := rfl
@[simp] theorem markReady_x (s : State) : (markReady s).x = s.x := rfl
@[simp] theorem markReady_pc (s : State) : (markReady s).pc = s.pc := rfl
@[simp] theorem markReady_dc (s : State) : (markReady s).dc = s.dc := rfl
@[simp] theorem markReady_agc (s : State) : (markReady s).agc = s.agc := rfl
@[simp] theorem markReady_flk_sampleCount (s : State) : (markReady s).flk.sampleCount = s.flk.sampleCount := rfl
@[simp] theorem markReady_flk_fifoThreshold (s : State) : (markReady s).flk.fifoThreshold = s.flk.fifoThreshold := rfl
@[simp] theorem markReady_flk_freq (s : State) : (markReady s).flk.freq = s.flk.freq := rfl
@[simp] theorem markReady_flk_gain (s : State) : (markReady s).flk.gain = s.flk.gain := rfl
@[simp] theorem markReady_flk_metaEnd (s : State) : (markReady s).flk.metaEnd = s.flk.metaEnd := rfl
@[simp] theorem markReady_flk_metaGain (s : State) : (markReady s).flk.metaGain = s.flk.metaGain := rfl
@[simp] theorem markReady_flk_metaCsum (s : State) : (markReady s).flk.metaCsum = s.flk.metaCsum := rfl
@[simp] theorem markReady_flk_avgC (s : State) : (markReady s).flk.avgC = s.flk.avgC := rfl
@[simp] theorem markReady_flk_avgW (s : State) : (markReady s).flk.avgW = s.flk.avgW := rfl
@[simp] theorem markReady_flk_normC (s : State) : (markReady s).flk.normC = s.flk.normC := rfl
@[simp] theorem markReady_flk_normW (s : State) : (markReady s).flk.normW = s.flk.normW := rfl
@[simp] theorem markReady_flk_thresh (s : State) : (markReady s).flk.thresh = s.flk.thresh := rfl
@[simp] theorem markReady_flk_peakBin (s : State) : (markReady s).flk.peakBin = s.flk.peakBin := rfl
@[simp] theorem markReady_flk_peakMag (s : State) : (markReady s).flk.peakMag = s.flk.peakMag := rfl
@[simp] theorem markReady_flk_checksum (s : State) : (markReady s).flk.checksum = s.flk.checksum := rfl
@[simp] theorem markReady_flk_endMarker (s : State) : (markReady s).flk.endMarker = s.flk.endMarker := rfl
@[simp] theorem markReady_flk_satf (s : State) : (markReady s).flk.satf = s.flk.satf := rfl
@[simp] theorem markReady_als (s : State) : (markReady s).als = s.als := rfl
@[simp] theorem markReady_buf (s : State) : (markReady s).buf = s.buf := rfl
@[simp] theorem markReady_bus (s : State) : (markReady s).bus = s.bus := rfl
@[simp] theorem markReady_records (s : State) : (markReady s).records = s.records := rfl
@[simp] theorem markReady_inbox (s : State) : (markReady s).inbox = s.inbox := rfl

@[simp] theorem windowGenerate_cfg (s : State) : (windowGenerate s).cfg = s.cfg := rfl
@[simp] theorem windowGenerate_attached (s : State) : (windowGenerate s).attached = s.attached := rfl
@[simp] theorem windowGenerate_x (s : State) : (windowGenerate s).x = s.x := rfl
@[simp] theorem windowGenerate_pc (s : State) : (windowGenerate s).pc = s.pc := rfl
@[simp] theorem windowGenerate_dc (s : State) : (windowGenerate s).dc = s.dc := rfl
@[simp] theorem windowGenerate_agc (s : State) : (windowGenerate s).agc = s.agc := rfl
@[simp] theorem windowGenerate_flk (s : State) : (windowGenerate s).flk = s.flk := rfl
@[simp] theorem windowGenerate_als (s : State) : (windowGenerate s).als = s.als := rfl
@[simp] theorem windowGenerate_buf_ring (s : State) : (windowGenerate s).buf.ring = s.buf.ring := rfl
@[simp] theorem windowGenerate_buf_ringLen (s : State) : (windowGenerate s).buf.ringLen = s.buf.ringLen := rfl
@[simp] theorem windowGenerate_buf_clear (s : State) : (windowGenerate s).buf.clear = s.buf.clear := rfl
@[simp] theorem windowGenerate_buf_wide (s : State) : (windowGenerate s).buf.wide = s.buf.wide := rfl
@[simp] theorem windowGenerate_buf_re (s : State) : (windowGenerate s).buf.re = s.buf.re := rfl
@[simp] theorem windowGenerate_buf_im (s : State) : (windowGenerate s).buf.im = s.buf.im := rfl
@[simp] theorem windowGenerate_buf_mag (s : State) : (windowGenerate s).buf.mag = s.buf.mag := rfl
@[simp] theorem windowGenerate_buf_xfer (s : State) : (windowGenerate s).buf.xfer = s.buf.xfer := rfl
@[simp] theorem windowGenerate_bus (s : State) : (windowGenerate s).bus = s.bus := rfl
@[simp] theorem windowGenerate_records (s : State) : (windowGenerate s).records = s.records := rfl
@[simp] theorem windowGenerate_inbox (s : State) : (windowGenerate s).inbox = s.inbox := rfl

@[simp] theorem applyWindow_cfg (s : State) : (applyWindow s).cfg = s.cfg := rfl
@[simp] theorem applyWindow_attached (s : State) : (applyWindow s).attached = s.attached := rfl
@[simp] theorem applyWindow_x (s : State) : (applyWindow s).x = s.x := rfl
@[simp] theorem applyWindow_pc (s : State) : (applyWindow s).pc = s.pc := rfl
@[simp] theorem applyWindow_dc (s : State) : (applyWindow s).dc = s.dc := rfl
@[simp] theorem applyWindow_agc (s : State) : (applyWindow s).agc = s.agc := rfl
@[simp] theorem applyWindow_flk_sampleCount (s : State) : (applyWindow s).flk.sampleCount = s.flk.sampleCount := rfl
@[simp] theorem applyWindow_flk_fifoThreshold (s : State) : (applyWindow s).flk.fifoThreshold = s.flk.fifoThreshold := rfl
@[simp] theorem applyWindow_flk_freq (s : State) : (applyWindow s).flk.freq = s.flk.freq := rfl
@[simp] theorem applyWindow_flk_dataReady (s : State) : (applyWindow s).flk.dataReady = s.flk.dataReady := rfl
@[simp] theorem applyWindow_flk_gain (s : State) : (applyWindow s).flk.gain = s.flk.gain := rfl
@[simp] theorem applyWindow_flk_metaEnd (s : State) : (applyWindow s).flk.metaEnd = s.flk.metaEnd := rfl
@[simp] theorem applyWindow_flk_metaGain (s : State) : (applyWindow s).flk.metaGain = s.flk.metaGain := rfl
@[simp] theorem applyWindow_flk_metaCsum (s : State) : (applyWindow s).flk.metaCsum = s.flk.metaCsum := rfl
@[simp] theorem applyWindow_flk_avgC (s : State) : (applyWindow s).flk.avgC = s.flk.avgC := rfl
@[simp] theorem applyWindow_flk_avgW (s : State) : (applyWindow s).flk.avgW = s.flk.avgW := rfl
@[simp] theorem applyWindow_flk_normC (s : State) : (applyWindow s).flk.normC = s.flk.normC := rfl
@[simp] theorem applyWindow_flk_normW (s : State) : (applyWindow s).flk.normW = s.flk.normW := rfl
@[simp] theorem applyWindow_flk_thresh (s : State) : (applyWindow s).flk.thresh = s.flk.thresh := rfl
@[simp] theorem applyWindow_flk_peakBin (s : State) : (applyWindow s).flk.peakBin = s.flk.peakBin := rfl
@[simp] theorem applyWindow_flk_peakMag (s : State) : (applyWindow s).flk.peakMag = s.flk.peakMag := rfl
@[simp] theorem applyWindow_flk_checksum (s : State) : (applyWindow s).flk.checksum = s.flk.checksum := rfl
@[simp] theorem applyWindow_flk_endMarker (s : State) : (applyWindow s).flk.endMarker = s.flk.endMarker := rfl
@[simp] theorem applyWindow_als (s : State) : (applyWindow s).als = s.als := rfl
@[simp] theorem applyWindow_buf_ring (s : State) : (applyWindow s).buf.ring = s.buf.ring := rfl
@[simp] theorem applyWindow_buf_ringLen (s : State) : (applyWindow s).buf.ringLen = s.buf.ringLen := rfl
@[simp] theorem applyWindow_buf_clear (s : State) : (applyWindow s).buf.clear = s.buf.clear := rfl
@[simp] theorem applyWindow_buf_wide (s : State) : (applyWindow s).buf.wide = s.buf.wide := rfl
@[simp] theorem applyWindow_buf_mag (s : State) : (applyWindow s).buf.mag = s.buf.mag := rfl
@[simp] theorem applyWindow_buf_win (s : State) : (applyWindow s).buf.win = s.buf.win := rfl
@[simp] theorem applyWindow_buf_xfer (s : State) : (applyWindow s).buf.xfer = s.buf.xfer := rfl
@[simp] theorem applyWindow_bus (s : State) : (applyWindow s).bus = s.bus := rfl
@[simp] theorem applyWindow_records (s : State) : (applyWindow s).records = s.records := rfl
@[simp] theorem applyWindow_inbox (s : State) : (applyWindow s).inbox = s.inbox := rfl

@[simp] theorem storeSpectrum_cfg (sp : Spectrum) (s : State) : (storeSpectrum sp s).cfg = s.cfg := rfl
@[simp] theorem storeSpectrum_attached (sp : Spectrum) (s : State) : (storeSpectrum sp s).attached = s.attached := rfl
@[simp] theorem storeSpectrum_x (sp : Spectrum) (s : State) : (storeSpectrum sp s).x = s.x := rfl
@[simp] theorem storeSpectrum_pc (sp : Spectrum) (s : State) : (storeSpectrum sp s).pc = s.pc := rfl
@[simp] theorem storeSpectrum_dc (sp : Spectrum) (s : State) : (storeSpectrum sp s).dc = s.dc := rfl
@[simp] theorem storeSpectrum_agc (sp : Spectrum) (s : State) : (storeSpectrum sp s).agc = s.agc := rfl
@[simp] theorem storeSpectrum_flk (sp : Spectrum) (s : State) : (storeSpectrum sp s).flk = s.flk := rfl
@[simp] theorem storeSpectrum_als (sp : Spectrum) (s : State) : (storeSpectrum sp s).als = s.als := rfl
@[simp] theorem storeSpectrum_buf_ring (sp : Spectrum) (s : State) : (storeSpectrum sp s).buf.ring = s.buf.ring := rfl
@[simp] theorem storeSpectrum_buf_ringLen (sp : Spectrum) (s : State) : (storeSpectrum sp s).buf.ringLen = s.buf.ringLen := rfl
@[simp] theorem storeSpectrum_buf_clear (sp : Spectrum) (s : State) : (storeSpectrum sp s).buf.clear = s.buf.clear := rfl
@[simp] theorem storeSpectrum_buf_wide (sp : Spectrum) (s : State) : (storeSpectrum sp s).buf.wide = s.buf.wide := rfl
@[simp] theorem storeSpectrum_buf_mag (sp : Spectrum) (s : State) : (storeSpectrum sp s).buf.mag = s.buf.mag := rfl
@[simp] theorem storeSpectrum_buf_win (sp : Spectrum) (s : State) : (storeSpectrum sp s).buf.win = s.buf.win := rfl
@[simp] theorem storeSpectrum_buf_xfer (sp : Spectrum) (s : State) : (storeSpectrum sp s).buf.xfer = s.buf.xfer := rfl
@[simp] theorem storeSpectrum_bus (sp : Spectrum) (s : State) : (storeSpectrum sp s).bus = s.bus := rfl
@[simp] theorem storeSpectrum_records (sp : Spectrum) (s : State) : (storeSpectrum sp s).records = s.records := rfl
@[simp] theorem storeSpectrum_inbox (sp : Spectrum) (s : State) : (storeSpectrum sp s).inbox = s.inbox := rfl

@[simp] theorem storeMag_cfg (l : List U64) (s : State) : (storeMag l s).cfg = s.cfg := rfl
@[simp] theorem storeMag_attached (l : List U64) (s : State) : (storeMag l s).attached = s.attached := rfl
@[simp] theorem storeMag_x (l : List U64) (s : State) : (storeMag l s).x = s.x := rfl
@[simp] theorem storeMag_pc (l : List U64) (s : State) : (storeMag l s).pc = s.pc := rfl
@[simp] theorem storeMag_dc (l : List U64) (s : State) : (storeMag l s).dc = s.dc := rfl
@[simp] theorem storeMag_agc (l : List U64) (s : State) : (storeMag l s).agc = s.agc := rfl
@[simp] theorem storeMag_flk (l : List U64) (s : State) : (storeMag l s).flk = s.flk := rfl
@[simp] theorem storeMag_als (l : List U64) (s : State) : (storeMag l s).als = s.als := rfl
@[simp] theorem storeMag_buf_ring (l : List U64) (s : State) : (storeMag l s).buf.ring = s.buf.ring := rfl
@[simp] theorem storeMag_buf_ringLen (l : List U64) (s : State) : (storeMag l s).buf.ringLen = s.buf.ringLen := rfl
@[simp] theorem storeMag_buf_clear (l : List U64) (s : State) : (storeMag l s).buf.clear = s.buf.clear := rfl
@[simp] theorem storeMag_buf_wide (l : List U64) (s : State) : (storeMag l s).buf.wide = s.buf.wide := rfl
@[simp] theorem storeMag_buf_re (l : List U64) (s : State) : (storeMag l s).buf.re = s.buf.re := rfl
@[simp] theorem storeMag_buf_im (l : List U64) (s : State) : (storeMag l s).buf.im = s.buf.im := rfl
@[simp] theorem storeMag_buf_win (l : List U64) (s : State) : (storeMag l s).buf.win = s.buf.win := rfl
@[simp] theorem storeMag_buf_xfer (l : List U64) (s : State) : (storeMag l s).buf.xfer = s.buf.xfer := rfl
@[simp] theorem storeMag_bus (l : List U64) (s : State) : (storeMag l s).bus = s.bus := rfl
@[simp] theorem storeMag_records (l : List U64) (s : State) : (storeMag l s).records = s.records := rfl
@[simp] theorem storeMag_inbox (l : List U64) (s : State) : (storeMag l s).inbox = s.inbox := rfl

@[simp] theorem splitSamples_cfg (n : Nat) (s : State) : (splitSamples n s).cfg = s.cfg := rfl
@[simp] theorem splitSamples_attached (n : Nat) (s : State) : (splitSamples n s).attached = s.attached := rfl
@[simp] theorem splitSamples_x (n : Nat) (s : State) : (splitSamples n s).x = s.x := rfl
@[simp] theorem splitSamples_pc (n : Nat) (s : State) : (splitSamples n s).pc = s.pc := rfl
@[simp] theorem splitSamples_dc (n : Nat) (s : State) : (splitSamples n s).dc = s.dc := rfl
@[simp] theorem splitSamples_agc (n : Nat) (s : State) : (splitSamples n s).agc = s.agc := rfl
@[simp] theorem splitSamples_flk (n : Nat) (s : State) : (splitSamples n s).flk = s.flk := rfl
@[simp] theorem splitSamples_als (n : Nat) (s : State) : (splitSamples n s).als = s.als := rfl
@[simp] theorem splitSamples_buf_ring (n : Nat) (s : State) : (splitSamples n s).buf.ring = s.buf.ring := rfl
@[simp] theorem splitSamples_buf_ringLen (n : Nat) (s : State) : (splitSamples n s).buf.ringLen = s.buf.ringLen := rfl
@[simp] theorem splitSamples_buf_re (n : Nat) (s : State) : (splitSamples n s).buf.re = s.buf.re := rfl
@[simp] theorem splitSamples_buf_im (n : Nat) (s : State) : (splitSamples n s).buf.im = s.buf.im := rfl
@[simp] theorem splitSamples_buf_mag (n : Nat) (s : State) : (splitSamples n s).buf.mag = s.buf.mag := rfl
@[simp] theorem splitSamples_buf_win (n : Nat) (s : State) : (splitSamples n s).buf.win = s.buf.win := rfl
@[simp] theorem splitSamples_buf_xfer (n : Nat) (s : State) : (splitSamples n s).buf.xfer = s.buf.xfer := rfl
@[simp] theorem splitSamples_bus (n : Nat) (s : State) : (splitSamples n s).bus = s.bus := rfl
@[simp] theorem splitSamples_records (n : Nat) (s : State) : (splitSamples n s).records = s.records := rfl
@[simp] theorem splitSamples_inbox (n : Nat) (s : State) : (splitSamples n s).inbox = s.inbox := rfl

@[simp] theorem parseTrailer_cfg (s : State) : (parseTrailer s).cfg = s.cfg := rfl
@[simp] theorem parseTrailer_attached (s : State) : (parseTrailer s).attached = s.attached := rfl
@[simp] theorem parseTrailer_x (s : State) : (parseTrailer s).x = s.x := rfl
@[simp] theorem parseTrailer_pc (s : State) : (parseTrailer s).pc = s.pc := rfl
@[simp] theorem parseTrailer_dc (s : State) : (parseTrailer s).dc = s.dc := rfl
@[simp] theorem parseTrailer_agc (s : State) : (parseTrailer s).agc = s.agc := rfl
@[simp] theorem parseTrailer_flk_sampleCount (s : State) : (parseTrailer s).flk.sampleCount = s.flk.sampleCount := rfl
@[simp] theorem parseTrailer_flk_fifoThreshold (s : State) : (parseTrailer s).flk.fifoThreshold = s.flk.fifoThreshold := rfl
@[simp] theorem parseTrailer_flk_freq (s : State) : (parseTrailer s).flk.freq = s.flk.freq := rfl
@[simp] theorem parseTrailer_flk_dataReady (s : State) : (parseTrailer s).flk.dataReady = s.flk.dataReady := rfl
@[simp] theorem parseTrailer_flk_metaEnd (s : State) : (parseTrailer s).flk.metaEnd = s.flk.metaEnd := rfl
@[simp] theorem parseTrailer_flk_metaGain (s : State) : (parseTrailer s).flk.metaGain = s.flk.metaGain := rfl
@[simp] theorem parseTrailer_flk_metaCsum (s : State) : (parseTrailer s).flk.metaCsum = s.flk.metaCsum := rfl
@[simp] theorem parseTrailer_flk_avgC (s : State) : (parseTrailer s).flk.avgC = s.flk.avgC := rfl
@[simp] theorem parseTrailer_flk_avgW (s : State) : (parseTrailer s).flk.avgW = s.flk.avgW := rfl
@[simp] theorem parseTrailer_flk_normC (s : State) : (parseTrailer s).flk.normC = s.flk.normC := rfl
@[simp] theorem parseTrailer_flk_normW (s : State) : (parseTrailer s).flk.normW = s.flk.normW := rfl
@[simp] theorem parseTrailer_flk_thresh (s : State) : (parseTrailer s).flk.thresh = s.flk.thresh := rfl
@[simp] theorem parseTrailer_flk_peakBin (s : State) : (parseTrailer s).flk.peakBin = s.flk.peakBin := rfl
@[simp] theorem parseTrailer_flk_peakMag (s : State) : (parseTrailer s).flk.peakMag = s.flk.peakMag := rfl
@[simp] theorem parseTrailer_flk_satf (s : State) : (parseTrailer s).flk.satf = s.flk.satf := rfl
@[simp] theorem parseTrailer_als (s : State) : (parseTrailer s).als = s.als := rfl
@[simp] theorem parseTrailer_buf (s : State) : (parseTrailer s).buf = s.buf := rfl
@[simp] theorem parseTrailer_bus (s : State) : (parseTrailer s).bus = s.bus := rfl
@[simp] theorem parseTrailer_records (s : State) : (parseTrailer s).records = s.records := rfl
@[simp] theorem parseTrailer_inbox (s : State) : (parseTrailer s).inbox = s.inbox := rfl

@[simp] theorem storeAverages_cfg (n : Nat) (s : State) : (storeAverages n s).cfg = s.cfg := rfl
@[simp] theorem storeAverages_attached (n : Nat) (s : State) : (storeAverages n s).attached = s.attached := rfl
@[simp] theorem storeAverages_x (n : Nat) (s : State) : (storeAverages n s).x = s.x := rfl
@[simp] theorem storeAverages_pc (n : Nat) (s : State) : (storeAverages n s).pc = s.pc := rfl
@[simp] theorem storeAverages_dc (n : Nat) (s : State) : (storeAverages n s).dc = s.dc := rfl
@[simp] theorem storeAverages_agc (n : Nat) (s : State) : (storeAverages n s).agc = s.agc := rfl
@[simp] theorem storeAverages_flk_sampleCount (n : Nat) (s : State) : (storeAverages n s).flk.sampleCount = s.flk.sampleCount := rfl
@[simp] theorem storeAverages_flk_fifoThreshold (n : Nat) (s : State) : (storeAverages n s).flk.fifoThreshold = s.flk.fifoThreshold := rfl
@[simp] theorem storeAverages_flk_freq (n : Nat) (s : State) : (storeAverages n s).flk.freq = s.flk.freq := rfl
@[simp] theorem storeAverages_flk_dataReady (n : Nat) (s : State) : (storeAverages n s).flk.dataReady = s.flk.dataReady := rfl
@[simp] theorem storeAverages_flk_gain (n : Nat) (s : State) : (storeAverages n s).flk.gain = s.flk.gain := rfl
@[simp] theorem storeAverages_flk_metaEnd (n : Nat) (s : State) : (storeAverages n s).flk.metaEnd = s.flk.metaEnd := rfl
@[simp] theorem storeAverages_flk_metaGain (n : Nat) (s : State) : (storeAverages n s).flk.metaGain = s.flk.metaGain := rfl
@[simp] theorem storeAverages_flk_metaCsum (n : Nat) (s : State) : (storeAverages n s).flk.metaCsum = s.flk.metaCsum := rfl
@[simp] theorem storeAverages_flk_normC (n : Nat) (s : State) : (storeAverages n s).flk.normC = s.flk.normC := rfl
@[simp] theorem storeAverages_flk_normW (n : Nat) (s : State) : (storeAverages n s).flk.normW = s.flk.normW := rfl
@[simp] theorem storeAverages_flk_thresh (n : Nat) (s : State) : (storeAverages n s).flk.thresh = s.flk.thresh := rfl
@[simp] theorem storeAverages_flk_peakBin (n : Nat) (s : State) : (storeAverages n s).flk.peakBin = s.flk.peakBin := rfl
@[simp] theorem storeAverages_flk_peakMag (n : Nat) (s : State) : (storeAverages n s).flk.peakMag = s.flk.peakMag := rfl
@[simp] theorem storeAverages_flk_checksum (n : Nat) (s : State) : (storeAverages n s).flk.checksum = s.flk.checksum := rfl
@[simp] theorem storeAverages_flk_endMarker (n : Nat) (s : State) : (storeAverages n s).flk.endMarker = s.flk.endMarker := rfl
@[simp] theorem storeAverages_flk_satf (n : Nat) (s : State) : (storeAverages n s).flk.satf = s.flk.satf := rfl
@[simp] theorem storeAverages_als (n : Nat) (s : State) : (storeAverages n s).als = s.als := rfl
@[simp] theorem storeAverages_buf (n : Nat) (s : State) : (storeAverages n s).buf = s.buf := rfl
@[simp] theorem storeAverages_bus (n : Nat) (s : State) : (storeAverages n s).bus = s.bus := rfl
@[simp] theorem storeAverages_records (n : Nat) (s : State) : (storeAverages n s).records = s.records := rfl
@[simp] theorem storeAverages_inbox (n : Nat) (s : State) : (storeAverages n s).inbox = s.inbox := rfl

@[simp] theorem findPeak_cfg (s : State) : (findPeak s).cfg = s.cfg := rfl
@[simp] theorem findPeak_attached (s : State) : (findPeak s).attached = s.attached := rfl
@[simp] theorem findPeak_x (s : State) : (findPeak s).x = s.x := rfl
@[simp] theorem findPeak_pc (s : State) : (findPeak s).pc = s.pc := rfl
@[simp] theorem findPeak_dc (s : State) : (findPeak s).dc = s.dc := rfl
@[simp] theorem findPeak_agc (s : State) : (findPeak s).agc = s.agc := rfl
@[simp] theorem findPeak_flk_sampleCount (s : State) : (findPeak s).flk.sampleCount = s.flk.sampleCount := rfl
@[simp] theorem findPeak_flk_fifoThreshold (s : State) : (findPeak s).flk.fifoThreshold = s.flk.fifoThreshold := rfl
@[simp] theorem findPeak_flk_freq (s : State) : (findPeak s).flk.freq = s.flk.freq := rfl
@[simp] theorem findPeak_flk_dataReady (s : State) : (findPeak s).flk.dataReady = s.flk.dataReady := rfl
@[simp] theorem findPeak_flk_gain (s : State) : (findPeak s).flk.gain = s.flk.gain := rfl
@[simp] theorem findPeak_flk_metaEnd (s : State) : (findPeak s).flk.metaEnd = s.flk.metaEnd := rfl
@[simp] theorem findPeak_flk_metaGain (s : State) : (findPeak s).flk.metaGain = s.flk.metaGain := rfl
@[simp] theorem findPeak_flk_metaCsum (s : State) : (findPeak s).flk.metaCsum = s.flk.metaCsum := rfl
@[simp] theorem findPeak_flk_avgC (s : State) : (findPeak s).flk.avgC = s.flk.avgC := rfl
@[simp] theorem findPeak_flk_avgW (s : State) : (findPeak s).flk.avgW = s.flk.avgW := rfl
@[simp] theorem findPeak_flk_normC (s : State) : (findPeak s).flk.normC = s.flk.normC := rfl
@[simp] theorem findPeak_flk_normW (s : State) : (findPeak s).flk.normW = s.flk.normW := rfl
@[simp] theorem findPeak_flk_thresh (s : State) : (findPeak s).flk.thresh = s.flk.thresh := rfl
@[simp] theorem findPeak_flk_checksum (s : State) : (findPeak s).flk.checksum = s.flk.checksum := rfl
@[simp] theorem findPeak_flk_endMarker (s : State) : (findPeak s).flk.endMarker = s.flk.endMarker := rfl
@[simp] theorem findPeak_flk_satf (s : State) : (findPeak s).flk.satf = s.flk.satf := rfl
@[simp] theorem findPeak_als (s : State) : (findPeak s).als = s.als := rfl
@[simp] theorem findPeak_buf (s : State) : (findPeak s).buf = s.buf := rfl
@[simp] theorem findPeak_bus (s : State) : (findPeak s).bus = s.bus := rfl
@[simp] theorem findPeak_records (s : State) : (findPeak s).records = s.records := rfl
@[simp] theorem findPeak_inbox (s : State) : (findPeak s).inbox = s.inbox := rfl

@[simp] theorem storeFreq_cfg (f : U32) (s : State) : (storeFreq f s).cfg = s.cfg := rfl
@[simp] theorem storeFreq_attached (f : U32) (s : State) : (storeFreq f s).attached = s.attached := rfl
@[simp] theorem storeFreq_x (f : U32) (s : State) : (storeFreq f s).x = s.x := rfl
@[simp] theorem storeFreq_pc (f : U32) (s : State) : (storeFreq f s).pc = s.pc := rfl
@[simp] theorem storeFreq_dc (f : U32) (s : State) : (storeFreq f s).dc = s.dc := rfl
@[simp] theorem storeFreq_agc (f : U32) (s : State) : (storeFreq f s).agc = s.agc := rfl
@[simp] theorem storeFreq_flk_sampleCount (f : U32) (s : State) : (storeFreq f s).flk.sampleCount = s.flk.sampleCount := rfl
@[simp] theorem storeFreq_flk_fifoThreshold (f : U32) (s : State) : (storeFreq f s).flk.fifoThreshold = s.flk.fifoThreshold := rfl
@[simp] theorem storeFreq_flk_dataReady (f : U32) (s : State) : (storeFreq f s).flk.dataReady = s.flk.dataReady := rfl
@[simp] theorem storeFreq_flk_gain (f : U32) (s : State) : (storeFreq f s).flk.gain = s.flk.gain := rfl
@[simp] theorem storeFreq_flk_metaEnd (f : U32) (s : State) : (storeFreq f s).flk.metaEnd = s.flk.metaEnd := rfl
@[simp] theorem storeFreq_flk_metaGain (f : U32) (s : State) : (storeFreq f s).flk.metaGain = s.flk.metaGain := rfl
@[simp] theorem storeFreq_flk_metaCsum (f : U32) (s : State) : (storeFreq f s).flk.metaCsum = s.flk.metaCsum := rfl
@[simp] theorem storeFreq_flk_avgC (f : U32) (s : State) : (storeFreq f s).flk.avgC = s.flk.avgC := rfl
@[simp] theorem storeFreq_flk_avgW (f : U32) (s : State) : (storeFreq f s).flk.avgW = s.flk.avgW := rfl
@[simp] theorem storeFreq_flk_normC (f : U32) (s : State) : (storeFreq f s).flk.normC = s.flk.normC := rfl
@[simp] theorem storeFreq_flk_normW (f : U32) (s : State) : (storeFreq f s).flk.normW = s.flk.normW := rfl
@[simp] theorem storeFreq_flk_thresh (f : U32) (s : State) : (storeFreq f s).flk.thresh = s.flk.thresh := rfl
@[simp] theorem storeFreq_flk_peakBin (f : U32) (s : State) : (storeFreq f s).flk.peakBin = s.flk.peakBin := rfl
@[simp] theorem storeFreq_flk_peakMag (f : U32) (s : State) : (storeFreq f s).flk.peakMag = s.flk.peakMag := rfl
@[simp] theorem storeFreq_flk_checksum (f : U32) (s : State) : (storeFreq f s).flk.checksum = s.flk.checksum := rfl
@[simp] theorem storeFreq_flk_endMarker (f : U32) (s : State) : (storeFreq f s).flk.endMarker = s.flk.endMarker := rfl
@[simp] theorem storeFreq_flk_satf (f : U32) (s : State) : (storeFreq f s).flk.satf = s.flk.satf := rfl
@[simp] theorem storeFreq_als (f : U32) (s : State) : (storeFreq f s).als = s.als := rfl
@[simp] theorem storeFreq_buf (f : U32) (s : State) : (storeFreq f s).buf = s.buf := rfl
@[simp] theorem storeFreq_bus (f : U32) (s : State) : (storeFreq f s).bus = s.bus := rfl
@[simp] theorem storeFreq_records (f : U32) (s : State) : (storeFreq f s).records = s.records := rfl
@[simp] theorem storeFreq_inbox (f : U32) (s : State) : (storeFreq f s).inbox = s.inbox := rfl

@[simp] theorem clearSaturation_cfg (s : State) : (clearSaturation s).cfg = s.cfg := rfl
@[simp] theorem clearSaturation_attached (s : State) : (clearSaturation s).attached = s.attached := rfl
@[simp] theorem clearSaturation_x (s : State) : (clearSaturation s).x = s.x := rfl
@[simp] theorem clearSaturation_pc (s : State) : (clearSaturation s).pc = s.pc := rfl
@[simp] theorem clearSaturation_dc (s : State) : (clearSaturation s).dc = s.dc := rfl
@[simp] theorem clearSaturation_agc (s : State) : (clearSaturation s).agc = s.agc := rfl
@[simp] theorem clearSaturation_flk_sampleCount (s : State) : (clearSaturation s).flk.sampleCount = s.flk.sampleCount := rfl
@[simp] theorem clearSaturation_flk_fifoThreshold (s : State) : (clearSaturation s).flk.fifoThreshold = s.flk.fifoThreshold := rfl
@[simp] theorem clearSaturation_flk_freq (s : State) : (clearSaturation s).flk.freq = s.flk.freq := rfl
@[simp] theorem clearSaturation_flk_dataReady (s : State) : (clearSaturation s).flk.dataReady = s.flk.dataReady := rfl
@[simp] theorem clearSaturation_flk_gain (s : State) : (clearSaturation s).flk.gain = s.flk.gain := rfl
@[simp] theorem clearSaturation_flk_metaEnd (s : State) : (clearSaturation s).flk.metaEnd = s.flk.metaEnd := rfl
@[simp] theorem clearSaturation_flk_metaGain (s : State) : (clearSaturation s).flk.metaGain = s.flk.metaGain := rfl
@[simp] theorem clearSaturation_flk_metaCsum (s : State) : (clearSaturation s).flk.metaCsum = s.flk.metaCsum := rfl
@[simp] theorem clearSaturation_flk_avgC (s : State) : (clearSaturation s).flk.avgC = s.flk.avgC := rfl
@[simp] theorem clearSaturation_flk_avgW (s : State) : (clearSaturation s).flk.avgW = s.flk.avgW := rfl
@[simp] theorem clearSaturation_flk_normC (s : State) : (clearSaturation s).flk.normC = s.flk.normC := rfl
@[simp] theorem clearSaturation_flk_normW (s : State) : (clearSaturation s).flk.normW = s.flk.normW := rfl
@[simp] theorem clearSaturation_flk_thresh (s : State) : (clearSaturation s).flk.thresh = s.flk.thresh := rfl
@[simp] theorem clearSaturation_flk_peakBin (s : State) : (clearSaturation s).flk.peakBin = s.flk.peakBin := rfl
@[simp] theorem clearSaturation_flk_peakMag (s : State) : (clearSaturation s).flk.peakMag = s.flk.peakMag := rfl
@[simp] theorem clearSaturation_flk_checksum (s : State) : (clearSaturation s).flk.checksum = s.flk.checksum := rfl
@[simp] theorem clearSaturation_flk_endMarker (s : State) : (clearSaturation s).flk.endMarker = s.flk.endMarker := rfl
@[simp] theorem clearSaturation_als (s : State) : (clearSaturation s).als = s.als := rfl
@[simp] theorem clearSaturation_buf (s : State) : (clearSaturation s).buf = s.buf := rfl
@[simp] theorem clearSaturation_bus (s : State) : (clearSaturation s).bus = s.bus := rfl
@[simp] theorem clearSaturation_records (s : State) : (clearSaturation s).records = s.records := rfl
@[simp] theorem clearSaturation_inbox (s : State) : (clearSaturation s).inbox = s.inbox := rfl

@[simp] theorem storeMaxGain_cfg (w : Bool) (c : U4) (s : State) : (storeMaxGain w c s).cfg = s.cfg := rfl
@[simp] theorem storeMaxGain_attached (w : Bool) (c : U4) (s : State) : (storeMaxGain w c s).attached = s.attached := rfl
@[simp] theorem storeMaxGain_x (w : Bool) (c : U4) (s : State) : (storeMaxGain w c s).x = s.x := rfl
@[simp] theorem storeMaxGain_pc (w : Bool) (c : U4) (s : State) : (storeMaxGain w c s).pc = s.pc := rfl
@[simp] theorem storeMaxGain_dc (w : Bool) (c : U4) (s : State) : (storeMaxGain w c s).dc = s.dc := rfl
@[simp] theorem storeMaxGain_flk (w : Bool) (c : U4) (s : State) : (storeMaxGain w c s).flk = s.flk := rfl
@[simp] theorem storeMaxGain_als (w : Bool) (c : U4) (s : State) : (storeMaxGain w c s).als = s.als := rfl
@[simp] theorem storeMaxGain_buf (w : Bool) (c : U4) (s : State) : (storeMaxGain w c s).buf = s.buf := rfl
@[simp] theorem storeMaxGain_bus (w : Bool) (c : U4) (s : State) : (storeMaxGain w c s).bus = s.bus := rfl
@[simp] theorem storeMaxGain_records (w : Bool) (c : U4) (s : State) : (storeMaxGain w c s).records = s.records := rfl
@[simp] theorem storeMaxGain_inbox (w : Bool) (c : U4) (s : State) : (storeMaxGain w c s).inbox = s.inbox := rfl

@[simp] theorem publishSample_cfg (c w : Nat) (l : U64) (s : State) : (publishSample c w l s).cfg = s.cfg := rfl
@[simp] theorem publishSample_attached (c w : Nat) (l : U64) (s : State) : (publishSample c w l s).attached = s.attached := rfl
@[simp] theorem publishSample_x (c w : Nat) (l : U64) (s : State) : (publishSample c w l s).x = s.x := rfl
@[simp] theorem publishSample_pc (c w : Nat) (l : U64) (s : State) : (publishSample c w l s).pc = s.pc := rfl
@[simp] theorem publishSample_dc_phase (c w : Nat) (l : U64) (s : State) : (publishSample c w l s).dc.phase = s.dc.phase := rfl
@[simp] theorem publishSample_dc_mode (c w : Nat) (l : U64) (s : State) : (publishSample c w l s).dc.mode = s.dc.mode := rfl
@[simp] theorem publishSample_dc_trig (c w : Nat) (l : U64) (s : State) : (publishSample c w l s).dc.trig = s.dc.trig := rfl
@[simp] theorem publishSample_dc_variant (c w : Nat) (l : U64) (s : State) : (publishSample c w l s).dc.variant = s.dc.variant := rfl
@[simp] theorem publishSample_dc_shEnable (c w : Nat) (l : U64) (s : State) : (publishSample c w l s).dc.shEnable = s.dc.shEnable := rfl
@[simp] theorem publishSample_dc_shIntenab (c w : Nat) (l : U64) (s : State) : (publishSample c w l s).dc.shIntenab = s.dc.shIntenab := rfl
@[simp] theorem publishSample_dc_shStatus (c w : Nat) (l : U64) (s : State) : (publishSample c w l s).dc.shStatus = s.dc.shStatus := rfl
@[simp] theorem publishSample_dc_errcnt (c w : Nat) (l : U64) (s : State) : (publishSample c w l s).dc.errcnt = s.dc.errcnt := rfl
@[simp] theorem publishSample_dc_lastErr (c w : Nat) (l : U64) (s : State) : (publishSample c w l s).dc.lastErr = s.dc.lastErr := rfl
@[simp] theorem publishSample_dc_faults (c w : Nat) (l : U64) (s : State) : (publishSample c w l s).dc.faults = s.dc.faults := rfl
@[simp] theorem publishSample_agc (c w : Nat) (l : U64) (s : State) : (publishSample c w l s).agc = s.agc := rfl
@[simp] theorem publishSample_flk (c w : Nat) (l : U64) (s : State) : (publishSample c w l s).flk = s.flk := rfl
@[simp] theorem publishSample_als_state (c w : Nat) (l : U64) (s : State) : (publishSample c w l s).als.state = s.als.state := rfl
@[simp] theorem publishSample_als_gainC (c w : Nat) (l : U64) (s : State) : (publishSample c w l s).als.gainC = s.als.gainC := rfl
@[simp] theorem publishSample_als_gainW (c w : Nat) (l : U64) (s : State) : (publishSample c w l s).als.gainW = s.als.gainW := rfl
@[simp] theorem publishSample_als_coefA (c w : Nat) (l : U64) (s : State) : (publishSample c w l s).als.coefA = s.als.coefA := rfl
@[simp] theorem publishSample_als_coefB (c w : Nat) (l : U64) (s : State) : (publishSample c w l s).als.coefB = s.als.coefB := rfl
@[simp] theorem publishSample_als_itime (c w : Nat) (l : U64) (s : State) : (publishSample c w l s).als.itime = s.als.itime := rfl
@[simp] theorem publishSample_buf (c w : Nat) (l : U64) (s : State) : (publishSample c w l s).buf = s.buf := rfl
@[simp] theorem publishSample_bus (c w : Nat) (l : U64) (s : State) : (publishSample c w l s).bus = s.bus := rfl
@[simp] theorem publishSample_records (c w : Nat) (l : U64) (s : State) : (publishSample c w l s).records = s.records := rfl
@[simp] theorem publishSample_inbox (c w : Nat) (l : U64) (s : State) : (publishSample c w l s).inbox = s.inbox := rfl

@[simp] theorem copyGains_cfg (s : State) : (copyGains s).cfg = s.cfg := rfl
@[simp] theorem copyGains_attached (s : State) : (copyGains s).attached = s.attached := rfl
@[simp] theorem copyGains_x (s : State) : (copyGains s).x = s.x := rfl
@[simp] theorem copyGains_pc (s : State) : (copyGains s).pc = s.pc := rfl
@[simp] theorem copyGains_dc (s : State) : (copyGains s).dc = s.dc := rfl
@[simp] theorem copyGains_agc (s : State) : (copyGains s).agc = s.agc := rfl
@[simp] theorem copyGains_flk (s : State) : (copyGains s).flk = s.flk := rfl
@[simp] theorem copyGains_als_state (s : State) : (copyGains s).als.state = s.als.state := rfl
@[simp] theorem copyGains_als_rawClear (s : State) : (copyGains s).als.rawClear = s.als.rawClear := rfl
@[simp] theorem copyGains_als_rawWide (s : State) : (copyGains s).als.rawWide = s.als.rawWide := rfl
@[simp] theorem copyGains_als_clearCorr (s : State) : (copyGains s).als.clearCorr = s.als.clearCorr := rfl
@[simp] theorem copyGains_als_wideCorr (s : State) : (copyGains s).als.wideCorr = s.als.wideCorr := rfl
@[simp] theorem copyGains_als_ir (s : State) : (copyGains s).als.ir = s.als.ir := rfl
@[simp] theorem copyGains_als_cwRatio (s : State) : (copyGains s).als.cwRatio = s.als.cwRatio := rfl
@[simp] theorem copyGains_als_lux (s : State) : (copyGains s).als.lux = s.als.lux := rfl
@[simp] theorem copyGains_als_luxAvg (s : State) : (copyGains s).als.luxAvg = s.als.luxAvg := rfl
@[simp] theorem copyGains_als_coefA (s : State) : (copyGains s).als.coefA = s.als.coefA := rfl
@[simp] theorem copyGains_als_coefB (s : State) : (copyGains s).als.coefB = s.als.coefB := rfl
@[simp] theorem copyGains_als_itime (s : State) : (copyGains s).als.itime = s.als.itime := rfl
@[simp] theorem copyGains_buf (s : State) : (copyGains s).buf = s.buf := rfl
@[simp] theorem copyGains_bus (s : State) : (copyGains s).bus = s.bus := rfl
@[simp] theorem copyGains_records (s : State) : (copyGains s).records = s.records := rfl
@[simp] theorem copyGains_inbox (s : State) : (copyGains s).inbox = s.inbox := rfl

@[simp] theorem consumeUpdate_cfg (s : State) : (consumeUpdate s).cfg = s.cfg := rfl
@[simp] theorem consumeUpdate_attached (s : State) : (consumeUpdate s).attached = s.attached := rfl
@[simp] theorem consumeUpdate_pc (s : State) : (consumeUpdate s).pc = s.pc := rfl
@[simp] theorem consumeUpdate_dc_phase (s : State) : (consumeUpdate s).dc.phase = s.dc.phase := rfl
@[simp] theorem consumeUpdate_dc_mode (s : State) : (consumeUpdate s).dc.mode = s.dc.mode := rfl
@[simp] theorem consumeUpdate_dc_trig (s : State) : (consumeUpdate s).dc.trig = s.dc.trig := rfl
@[simp] theorem consumeUpdate_dc_variant (s : State) : (consumeUpdate s).dc.variant = s.dc.variant := rfl
@[simp] theorem consumeUpdate_dc_shEnable (s : State) : (consumeUpdate s).dc.shEnable = s.dc.shEnable := rfl
@[simp] theorem consumeUpdate_dc_shIntenab (s : State) : (consumeUpdate s).dc.shIntenab = s.dc.shIntenab := rfl
@[simp] theorem consumeUpdate_dc_shStatus (s : State) : (consumeUpdate s).dc.shStatus = s.dc.shStatus := rfl
@[simp] theorem consumeUpdate_dc_errcnt (s : State) : (consumeUpdate s).dc.errcnt = s.dc.errcnt := rfl
@[simp] theorem consumeUpdate_dc_lastErr (s : State) : (consumeUpdate s).dc.lastErr = s.dc.lastErr := rfl
@[simp] theorem consumeUpdate_dc_faults (s : State) : (consumeUpdate s).dc.faults = s.dc.faults := rfl
@[simp] theorem consumeUpdate_agc (s : State) : (consumeUpdate s).agc = s.agc := rfl
@[simp] theorem consumeUpdate_flk (s : State) : (consumeUpdate s).flk = s.flk := rfl
@[simp] theorem consumeUpdate_als (s : State) : (consumeUpdate s).als = s.als := rfl
@[simp] theorem consumeUpdate_buf (s : State) : (consumeUpdate s).buf = s.buf := rfl
@[simp] theorem consumeUpdate_bus (s : State) : (consumeUpdate s).bus = s.bus := rfl
@[simp] theorem consumeUpdate_records (s : State) : (consumeUpdate s).records = s.records := rfl
@[simp] theorem consumeUpdate_inbox (s : State) : (consumeUpdate s).inbox = s.inbox := rfl

@[simp] theorem reinitFlicker_cfg (s : State) : (reinitFlicker s).cfg = s.cfg := rfl
@[simp] theorem reinitFlicker_attached (s : State) : (reinitFlicker s).attached = s.attached := rfl
@[simp] theorem reinitFlicker_x (s : State) : (reinitFlicker s).x = s.x := rfl
@[simp] theorem reinitFlicker_pc (s : State) : (reinitFlicker s).pc = s.pc := rfl
@[simp] theorem reinitFlicker_dc (s : State) : (reinitFlicker s).dc = s.dc := rfl
@[simp] theorem reinitFlicker_agc (s : State) : (reinitFlicker s).agc = s.agc := rfl
@[simp] theorem reinitFlicker_als (s : State) : (reinitFlicker s).als = s.als := rfl
@[simp] theorem reinitFlicker_buf_ring (s : State) : (reinitFlicker s).buf.ring = s.buf.ring := rfl
@[simp] theorem reinitFlicker_buf_clear (s : State) : (reinitFlicker s).buf.clear = s.buf.clear := rfl
@[simp] theorem reinitFlicker_buf_wide (s : State) : (reinitFlicker s).buf.wide = s.buf.wide := rfl
@[simp] theorem reinitFlicker_buf_re (s : State) : (reinitFlicker s).buf.re = s.buf.re := rfl
@[simp] theorem reinitFlicker_buf_im (s : State) : (reinitFlicker s).buf.im = s.buf.im := rfl
@[simp] theorem reinitFlicker_buf_mag (s : State) : (reinitFlicker s).buf.mag = s.buf.mag := rfl
@[simp] theorem reinitFlicker_buf_xfer (s : State) : (reinitFlicker s).buf.xfer = s.buf.xfer := rfl
@[simp] theorem reinitFlicker_bus (s : State) : (reinitFlicker s).bus = s.bus := rfl
@[simp] theorem reinitFlicker_records (s : State) : (reinitFlicker s).records = s.records := rfl
@[simp] theorem reinitFlicker_inbox (s : State) : (reinitFlicker s).inbox = s.inbox := rfl

@[simp] theorem reinitAls_cfg (s : State) : (reinitAls s).cfg = s.cfg := rfl
@[simp] theorem reinitAls_attached (s : State) : (reinitAls s).attached = s.attached := rfl
@[simp] theorem reinitAls_x (s : State) : (reinitAls s).x = s.x := rfl
@[simp] theorem reinitAls_pc (s : State) : (reinitAls s).pc = s.pc := rfl
@[simp] theorem reinitAls_dc (s : State) : (reinitAls s).dc = s.dc := rfl
@[simp] theorem reinitAls_agc (s : State) : (reinitAls s).agc = s.agc := rfl
@[simp] theorem reinitAls_flk (s : State) : (reinitAls s).flk = s.flk := rfl
@[simp] theorem reinitAls_buf (s : State) : (reinitAls s).buf = s.buf := rfl
@[simp] theorem reinitAls_bus (s : State) : (reinitAls s).bus = s.bus := rfl
@[simp] theorem reinitAls_records (s : State) : (reinitAls s).records = s.records := rfl
@[simp] theorem reinitAls_inbox (s : State) : (reinitAls s).inbox = s.inbox := rfl

@[simp] theorem markEnabled_cfg (f : Bool) (t : Trigger) (s : State) : (markEnabled f t s).cfg = s.cfg := rfl
@[simp] theorem markEnabled_attached (f : Bool) (t : Trigger) (s : State) : (markEnabled f t s).attached = s.attached := rfl
@[simp] theorem markEnabled_x (f : Bool) (t : Trigger) (s : State) : (markEnabled f t s).x = s.x := rfl
@[simp] theorem markEnabled_pc (f : Bool) (t : Trigger) (s : State) : (markEnabled f t s).pc = s.pc := rfl
@[simp] theorem markEnabled_dc_phase (f : Bool) (t : Trigger) (s : State) : (markEnabled f t s).dc.phase = s.dc.phase := rfl
@[simp] theorem markEnabled_dc_variant (f : Bool) (t : Trigger) (s : State) : (markEnabled f t s).dc.variant = s.dc.variant := rfl
@[simp] theorem markEnabled_dc_shEnable (f : Bool) (t : Trigger) (s : State) : (markEnabled f t s).dc.shEnable = s.dc.shEnable := rfl
@[simp] theorem markEnabled_dc_shIntenab (f : Bool) (t : Trigger) (s : State) : (markEnabled f t s).dc.shIntenab = s.dc.shIntenab := rfl
@[simp] theorem markEnabled_dc_shStatus (f : Bool) (t : Trigger) (s : State) : (markEnabled f t s).dc.shStatus = s.dc.shStatus := rfl
@[simp] theorem markEnabled_dc_update (f : Bool) (t : Trigger) (s : State) : (markEnabled f t s).dc.update = s.dc.update := rfl
@[simp] theorem markEnabled_dc_errcnt (f : Bool) (t : Trigger) (s : State) : (markEnabled f t s).dc.errcnt = s.dc.errcnt := rfl
@[simp] theorem markEnabled_dc_lastErr (f : Bool) (t : Trigger) (s : State) : (markEnabled f t s).dc.lastErr = s.dc.lastErr := rfl
@[simp] theorem markEnabled_dc_faults (f : Bool) (t : Trigger) (s : State) : (markEnabled f t s).dc.faults = s.dc.faults := rfl
@[simp] theorem markEnabled_agc (f : Bool) (t : Trigger) (s : State) : (markEnabled f t s).agc = s.agc := rfl
@[simp] theorem markEnabled_flk (f : Bool) (t : Trigger) (s : State) : (markEnabled f t s).flk = s.flk := rfl
@[simp] theorem markEnabled_buf (f : Bool) (t : Trigger) (s : State) : (markEnabled f t s).buf = s.buf := rfl
@[simp] theorem markEnabled_bus (f : Bool) (t : Trigger) (s : State) : (markEnabled f t s).bus = s.bus := rfl
@[simp] theorem markEnabled_records (f : Bool) (t : Trigger) (s : State) : (markEnabled f t s).records = s.records := rfl
@[simp] theorem markEnabled_inbox (f : Bool) (t : Trigger) (s : State) : (markEnabled f t s).inbox = s.inbox := rfl

@[simp] theorem storeThreshold_cfg (thr : U16) (s : State) : (storeThreshold thr s).cfg = s.cfg := rfl
@[simp] theorem storeThreshold_attached (thr : U16) (s : State) : (storeThreshold thr s).attached = s.attached := rfl
@[simp] theorem storeThreshold_x (thr : U16) (s : State) : (storeThreshold thr s).x = s.x := rfl
@[simp] theorem storeThreshold_pc (thr : U16) (s : State) : (storeThreshold thr s).pc = s.pc := rfl
@[simp] theorem storeThreshold_dc (thr : U16) (s : State) : (storeThreshold thr s).dc = s.dc := rfl
@[simp] theorem storeThreshold_agc (thr : U16) (s : State) : (storeThreshold thr s).agc = s.agc := rfl
@[simp] theorem storeThreshold_flk_sampleCount (thr : U16) (s : State) : (storeThreshold thr s).flk.sampleCount = s.flk.sampleCount := rfl
@[simp] theorem storeThreshold_flk_freq (thr : U16) (s : State) : (storeThreshold thr s).flk.freq = s.flk.freq := rfl
@[simp] theorem storeThreshold_flk_gain (thr : U16) (s : State) : (storeThreshold thr s).flk.gain = s.flk.gain := rfl
@[simp] theorem storeThreshold_flk_metaEnd (thr : U16) (s : State) : (storeThreshold thr s).flk.metaEnd = s.flk.metaEnd := rfl
@[simp] theorem storeThreshold_flk_metaGain (thr : U16) (s : State) : (storeThreshold thr s).flk.metaGain = s.flk.metaGain := rfl
@[simp] theorem storeThreshold_flk_metaCsum (thr : U16) (s : State) : (storeThreshold thr s).flk.metaCsum = s.flk.metaCsum := rfl
@[simp] theorem storeThreshold_flk_avgC (thr : U16) (s : State) : (storeThreshold thr s).flk.avgC = s.flk.avgC := rfl
@[simp] theorem storeThreshold_flk_avgW (thr : U16) (s : State) : (storeThreshold thr s).flk.avgW = s.flk.avgW := rfl
@[simp] theorem storeThreshold_flk_normC (thr : U16) (s : State) : (storeThreshold thr s).flk.normC = s.flk.normC := rfl
@[simp] theorem storeThreshold_flk_normW (thr : U16) (s : State) : (storeThreshold thr s).flk.normW = s.flk.normW := rfl
@[simp] theorem storeThreshold_flk_thresh (thr : U16) (s : State) : (storeThreshold thr s).flk.thresh = s.flk.thresh := rfl
@[simp] theorem storeThreshold_flk_peakBin (thr : U16) (s : State) : (storeThreshold thr s).flk.peakBin = s.flk.peakBin := rfl
@[simp] theorem storeThreshold_flk_peakMag (thr : U16) (s : State) : (storeThreshold thr s).flk.peakMag = s.flk.peakMag := rfl
@[simp] theorem storeThreshold_flk_checksum (thr : U16) (s : State) : (storeThreshold thr s).flk.checksum = s.flk.checksum := rfl
@[simp] theorem storeThreshold_flk_endMarker (thr : U16) (s : State) : (storeThreshold thr s).flk.endMarker = s.flk.endMarker := rfl
@[simp] theorem storeThreshold_flk_satf (thr : U16) (s : State) : (storeThreshold thr s).flk.satf = s.flk.satf := rfl
@[simp] theorem storeThreshold_als (thr : U16) (s : State) : (storeThreshold thr s).als = s.als := rfl
@[simp] theorem storeThreshold_buf_ring (thr : U16) (s : State) : (storeThreshold thr s).buf.ring = s.buf.ring := rfl
@[simp] theorem storeThreshold_buf_clear (thr : U16) (s : State) : (storeThreshold thr s).buf.clear = s.buf.clear := rfl
@[simp] theorem storeThreshold_buf_wide (thr : U16) (s : State) : (storeThreshold thr s).buf.wide = s.buf.wide := rfl
@[simp] theorem storeThreshold_buf_re (thr : U16) (s : State) : (storeThreshold thr s).buf.re = s.buf.re := rfl
@[simp] theorem storeThreshold_buf_im (thr : U16) (s : State) : (storeThreshold thr s).buf.im = s.buf.im := rfl
@[simp] theorem storeThreshold_buf_mag (thr : U16) (s : State) : (storeThreshold thr s).buf.mag = s.buf.mag := rfl
@[simp] theorem storeThreshold_buf_win (thr : U16) (s : State) : (storeThreshold thr s).buf.win = s.buf.win := rfl
@[simp] theorem storeThreshold_buf_xfer (thr : U16) (s : State) : (storeThreshold thr s).buf.xfer = s.buf.xfer := rfl
@[simp] theorem storeThreshold_bus (thr : U16) (s : State) : (storeThreshold thr s).bus = s.bus := rfl
@[simp] theorem storeThreshold_records (thr : U16) (s : State) : (storeThreshold thr s).records = s.records := rfl
@[simp] theorem storeThreshold_inbox (thr : U16) (s : State) : (storeThreshold thr s).inbox = s.inbox := rfl

@[simp] theorem setX_x (r : Nat) (v : U64) (s : State) : (setX r v s).x = s.x.setIfInBounds r v := rfl
@[simp] theorem endOperation_pc (st : Byte) (info : U16) (s : State) : (endOperation st info s).pc = s.pc + 1 := rfl
@[simp] theorem endOperation_records (st : Byte) (info : U16) (s : State) :
    (endOperation st info s).records = ⟨st, info⟩ :: s.records := rfl
@[simp] theorem endOperation_dc_lastErr (st : Byte) (info : U16) (s : State) :
    (endOperation st info s).dc.lastErr = st := rfl
@[simp] theorem endOperation_dc_faults (st : Byte) (info : U16) (s : State) :
    (endOperation st info s).dc.faults = recordFault s.dc.faults st := rfl
@[simp] theorem refuseBusy_records (s : State) :
    (refuseBusy s).records = ⟨statusOf .busy, 0⟩ :: s.records := rfl
@[simp] theorem refuseBusy_dc_faults (s : State) :
    (refuseBusy s).dc.faults = recordFault s.dc.faults (statusOf .busy) := rfl
@[simp] theorem countError_dc_errcnt (s : State) : (countError s).dc.errcnt = s.dc.errcnt + 1 := rfl
@[simp] theorem raiseUpdate_dc_update (u : BitVec 2) (s : State) :
    (raiseUpdate u s).dc.update = s.dc.update ||| u := rfl
@[simp] theorem setPhase_dc_phase (p : Phase) (s : State) : (setPhase p s).dc.phase = p := rfl
@[simp] theorem emptyRing_buf_ringLen (s : State) : (emptyRing s).buf.ringLen = 0 := rfl
@[simp] theorem emptyRing_flk_dataReady (s : State) : (emptyRing s).flk.dataReady = false := rfl
@[simp] theorem appendRing_buf_ring (l : List Byte) (s : State) :
    (appendRing l s).buf.ring = overlay s.buf.ring s.buf.ringLen.toNat l := rfl
@[simp] theorem appendRing_buf_ringLen (l : List Byte) (s : State) :
    (appendRing l s).buf.ringLen = s.buf.ringLen + BitVec.ofNat 16 l.length := rfl
@[simp] theorem markReady_flk_dataReady (s : State) :
    (markReady s).flk.dataReady = decide (frameBytes s.flk ≤ s.buf.ringLen.toNat) := rfl
@[simp] theorem windowGenerate_buf_win (s : State) :
    (windowGenerate s).buf.win = overlay s.buf.win 0 s.cfg.winTab := rfl
@[simp] theorem storeSpectrum_buf_re (sp : Spectrum) (s : State) : (storeSpectrum sp s).buf.re = sp.re := rfl
@[simp] theorem storeSpectrum_buf_im (sp : Spectrum) (s : State) : (storeSpectrum sp s).buf.im = sp.im := rfl
@[simp] theorem storeMag_buf_mag (l : List U64) (s : State) : (storeMag l s).buf.mag = l := rfl
@[simp] theorem storeFreq_flk_freq (f : U32) (s : State) : (storeFreq f s).flk.freq = f := rfl
@[simp] theorem clearSaturation_flk_satf (s : State) : (clearSaturation s).flk.satf = false := rfl
@[simp] theorem consumeUpdate_dc_update (s : State) : (consumeUpdate s).dc.update = 0 := rfl
@[simp] theorem reinitFlicker_flk (s : State) :
    (reinitFlicker s).flk = flickerInit s.cfg s.flk.fifoThreshold := rfl
@[simp] theorem reinitFlicker_buf_ringLen (s : State) : (reinitFlicker s).buf.ringLen = 0 := rfl
@[simp] theorem reinitAls_als (s : State) : (reinitAls s).als = alsInit s.cfg := rfl
@[simp] theorem markEnabled_dc_trig (f : Bool) (t : Trigger) (s : State) :
    (markEnabled f t s).dc.trig = t := rfl
@[simp] theorem markEnabled_dc_mode (f : Bool) (t : Trigger) (s : State) :
    (markEnabled f t s).dc.mode = s.dc.mode ||| modeBit f := rfl
@[simp] theorem storeThreshold_flk_fifoThreshold (thr : U16) (s : State) :
    (storeThreshold thr s).flk.fifoThreshold = thr := rfl
@[simp] theorem storeThreshold_buf_ringLen (thr : U16) (s : State) :
    (storeThreshold thr s).buf.ringLen = 0 := rfl

end Sys2Proof.Machine
end

