-- ==== Sys2Proof/Laws/Ops.lean ====
section
/-! SUPPORT. Everything each shared operation can do, said once: with the transaction that succeeds, with
the one that fails, and with the operand it refuses; then the relations every one of them keeps. -/

namespace Sys2Proof.Machine

/-! ### The bus -/

@[simp] theorem answerBytes_length (bytes : List Byte) (n draw : Nat) :
    (answerBytes bytes n draw).length = n := by simp [answerBytes]

/-- A read that succeeds returns as many bytes as were asked for. -/
theorem busRead_length {c : Config} {bus bus' : Bus} {addr : Byte} {n : Nat} {bytes : List Byte}
    (h : busRead c bus addr n = (some bytes, bus')) : bytes.length = n := by
  simp only [busRead, Prod.mk.injEq] at h
  obtain ⟨h, -⟩ := h
  unfold deviceRead at h
  split at h
  · unfold oracleRead at h
    split at h
    · simp at h
    · simp only [Option.some.injEq] at h; rw [← h]; simp
    · split at h
      · simp only [Option.some.injEq] at h; rw [← h]; simp
      · simp at h
  · unfold simRead at h
    split at h
    · simp only [Option.some.injEq] at h
      rw [← h]
      unfold simReadOk
      split
      · simp
      · split
        · next h2 => simp [h2.2]
        · split
          · next h2 => simp [h2.2]
          · simp
    · simp at h

/-- Every transaction is appended to the log, whatever the device answers. -/
theorem busRead_log (c : Config) (bus : Bus) (addr : Byte) (n : Nat) :
    (busRead c bus addr n).2.log = .read addr n (busRead c bus addr n).1 :: bus.log := rfl

theorem busWrite_log (c : Config) (bus : Bus) (addr : Byte) (bytes : List Byte) :
    (busWrite c bus addr bytes).2.log = .write addr bytes (busWrite c bus addr bytes).1 :: bus.log := rfl

/-! ### The reference device (20_memory.md R78) with no scripted failure -/

theorem simWriteBytes_outcomes (c : Config) (d : SimDev) (a : Nat) (bytes : List Byte) :
    (simWriteBytes c d a bytes).outcomes = d.outcomes := by
  induction bytes generalizing d a with
  | nil => rfl
  | cons b bs ih =>
    rw [simWriteBytes, ih]
    unfold simWriteByte
    split
    · rfl
    · split
      · split <;> rfl
      · split <;> rfl

theorem simReadOk_outcomes (c : Config) (d : SimDev) (addr : Byte) (n : Nat) :
    (simReadOk c d addr n).2.outcomes = d.outcomes := by
  unfold simReadOk
  split
  · rfl
  · split
    · rfl
    · split <;> rfl

/-- Every read succeeds. -/
theorem sim_reads (c : Config) (d : SimDev) (log : List BusTx) (addr : Byte) (n : Nat) (hd : d.outcomes = []) :
    ∃ bytes d', d'.outcomes = [] ∧
      busRead c ⟨.sim d, log⟩ addr n = (some bytes, ⟨.sim d', .read addr n (some bytes) :: log⟩) := by
  let r := simReadOk c { d with outcomes := d.outcomes.tail } addr n
  refine ⟨r.1, r.2, ?_, ?_⟩
  · rw [simReadOk_outcomes]; simp [hd]
  · simp only [r, busRead, deviceRead, simRead, hd, List.headD_nil, if_pos]

/-- Every write succeeds. -/
theorem sim_writes (c : Config) (d : SimDev) (log : List BusTx) (addr : Byte) (bytes : List Byte)
    (hd : d.outcomes = []) :
    ∃ d', d'.outcomes = [] ∧
      busWrite c ⟨.sim d, log⟩ addr bytes = (true, ⟨.sim d', .write addr bytes true :: log⟩) := by
  refine ⟨simWriteBytes c { d with outcomes := d.outcomes.tail } addr.toNat bytes, ?_, ?_⟩
  · rw [simWriteBytes_outcomes]; simp [hd]
  · simp only [busWrite, deviceWrite, simWrite, hd, List.headD_nil, if_pos]

/-! ### Register access (40_register_access.md R110 to R118) -/

variable {s : State} {bus : Bus} {bytes : List Byte} {reg val mask : Byte} {v : U16} {n : Nat}

theorem checkReg_run (reg : Byte) (s : State) :
    checkReg reg s = if reg.toNat < regMax s.cfg then .ok () s
      else .error ⟨.preconditionViolation, reg.setWidth 16⟩ s := by
  simp only [checkReg, bind_look, require_run, decide_eq_true_eq]

theorem checkReg_ok (hr : reg.toNat < regMax s.cfg) : checkReg reg s = .ok () s := by
  rw [checkReg_run, if_pos hr]

theorem checkReg_bad (hr : ¬ reg.toNat < regMax s.cfg) :
    checkReg reg s = .error ⟨.preconditionViolation, reg.setWidth 16⟩ s := by
  rw [checkReg_run, if_neg hr]

theorem require_ok {ok : Bool} (h : ok = true) (info : U16) (s : State) : require ok info s = .ok () s := by
  rw [h]; rfl

theorem require_bad {ok : Bool} (h : ok = false) (info : U16) (s : State) :
    require ok info s = .error ⟨.preconditionViolation, info⟩ s := by
  rw [h]; rfl

theorem transactRead_ok (hb : busRead s.cfg s.bus (regAddr s.cfg reg.toNat) n = (some bytes, bus)) :
    transactRead reg n s = .ok bytes { s with bus := bus } := by simp only [transactRead, hb]

theorem transactRead_fail (hb : busRead s.cfg s.bus (regAddr s.cfg reg.toNat) n = (none, bus)) :
    transactRead reg n s = .error ⟨.transportError, reg.setWidth 16⟩ (countError { s with bus := bus }) := by
  simp only [transactRead, hb]

theorem transactWrite_ok (hb : busWrite s.cfg s.bus (regAddr s.cfg reg.toNat) bytes = (true, bus)) :
    transactWrite reg bytes s = .ok () { s with bus := bus } := by simp only [transactWrite, hb]

theorem transactWrite_fail (hb : busWrite s.cfg s.bus (regAddr s.cfg reg.toNat) bytes = (false, bus)) :
    transactWrite reg bytes s = .error ⟨.transportError, reg.setWidth 16⟩ (countError { s with bus := bus }) := by
  simp only [transactWrite, hb]

theorem getByte_ok (hr : reg.toNat < regMax s.cfg)
    (hb : busRead s.cfg s.bus (regAddr s.cfg reg.toNat) 1 = (some bytes, bus)) :
    getByte reg s = .ok (bytes.getD 0 0) (shadowRead reg (bytes.getD 0 0) { s with bus := bus }) := by
  unfold getByte
  rw [bind_of_ok (checkReg_ok hr), bind_of_ok (transactRead_ok hb)]
  rfl

theorem getByte_fail (hr : reg.toNat < regMax s.cfg)
    (hb : busRead s.cfg s.bus (regAddr s.cfg reg.toNat) 1 = (none, bus)) :
    getByte reg s = .error ⟨.transportError, reg.setWidth 16⟩ (countError { s with bus := bus }) := by
  unfold getByte
  rw [bind_of_ok (checkReg_ok hr), bind_of_error (transactRead_fail hb)]

theorem getByte_bad (hr : ¬ reg.toNat < regMax s.cfg) :
    getByte reg s = .error ⟨.preconditionViolation, reg.setWidth 16⟩ s := by
  unfold getByte
  rw [bind_of_error (checkReg_bad hr)]

theorem setByte_ok (hr : reg.toNat < regMax s.cfg)
    (hb : busWrite s.cfg s.bus (regAddr s.cfg reg.toNat) [val] = (true, bus)) :
    setByte reg val s = .ok () (shadowWrite reg val { s with bus := bus }) := by
  unfold setByte
  rw [bind_of_ok (checkReg_ok hr), bind_of_ok (transactWrite_ok hb)]
  rfl

theorem setByte_fail (hr : reg.toNat < regMax s.cfg)
    (hb : busWrite s.cfg s.bus (regAddr s.cfg reg.toNat) [val] = (false, bus)) :
    setByte reg val s = .error ⟨.transportError, reg.setWidth 16⟩ (countError { s with bus := bus }) := by
  unfold setByte
  rw [bind_of_ok (checkReg_ok hr), bind_of_error (transactWrite_fail hb)]

theorem setByte_bad (hr : ¬ reg.toNat < regMax s.cfg) :
    setByte reg val s = .error ⟨.preconditionViolation, reg.setWidth 16⟩ s := by
  unfold setByte
  rw [bind_of_error (checkReg_bad hr)]

/-- Two ids a word operation may use: both exist, at consecutive addresses. -/
def wordReg (c : Config) (reg : Byte) : Prop :=
  reg.toNat + 1 < regMax c ∧ (regAddr c (reg.toNat + 1)).toNat = (regAddr c reg.toNat).toNat + 1

theorem checkWordReg_ok (hr : wordReg s.cfg reg) : checkWordReg reg s = .ok () s := by
  unfold checkWordReg
  rw [bind_look, bind_of_ok (require_ok (decide_eq_true hr.1) _ _), require_ok (beq_iff_eq.mpr hr.2)]

theorem checkWordReg_bad (hr : ¬ wordReg s.cfg reg) :
    checkWordReg reg s = .error ⟨.preconditionViolation, reg.setWidth 16⟩ s := by
  unfold checkWordReg
  rw [bind_look]
  by_cases h : reg.toNat + 1 < regMax s.cfg
  · rw [bind_of_ok (require_ok (decide_eq_true h) _ _), require_bad]
    exact beq_eq_false_iff_ne.mpr fun h2 => hr ⟨h, h2⟩
  · exact bind_of_error (require_bad (decide_eq_false h) _ _) _

theorem getWord_ok (hr : wordReg s.cfg reg)
    (hb : busRead s.cfg s.bus (regAddr s.cfg reg.toNat) 2 = (some bytes, bus)) :
    getWord reg s = .ok (le16 (bytes.getD 0 0) (bytes.getD 1 0)) { s with bus := bus } := by
  unfold getWord
  rw [bind_of_ok (checkWordReg_ok hr), bind_of_ok (transactRead_ok hb)]
  rfl

theorem getWord_fail (hr : wordReg s.cfg reg)
    (hb : busRead s.cfg s.bus (regAddr s.cfg reg.toNat) 2 = (none, bus)) :
    getWord reg s = .error ⟨.transportError, reg.setWidth 16⟩ (countError { s with bus := bus }) := by
  unfold getWord
  rw [bind_of_ok (checkWordReg_ok hr), bind_of_error (transactRead_fail hb)]

theorem setWord_ok (hr : wordReg s.cfg reg)
    (hb : busWrite s.cfg s.bus (regAddr s.cfg reg.toNat) [lowByte v, highByte v] = (true, bus)) :
    setWord reg v s = .ok () { s with bus := bus } := by
  unfold setWord
  rw [bind_of_ok (checkWordReg_ok hr), transactWrite_ok hb]

theorem setWord_fail (hr : wordReg s.cfg reg)
    (hb : busWrite s.cfg s.bus (regAddr s.cfg reg.toNat) [lowByte v, highByte v] = (false, bus)) :
    setWord reg v s = .error ⟨.transportError, reg.setWidth 16⟩ (countError { s with bus := bus }) := by
  unfold setWord
  rw [bind_of_ok (checkWordReg_ok hr), transactWrite_fail hb]

theorem checkLength_ok (h0 : n ≠ 0) (hn : n ≤ s.cfg.bus.xferMax) : checkLength n s = .ok () s := by
  unfold checkLength
  rw [bind_look, require_ok]
  simp [h0, hn]

theorem checkLength_bad (h : n = 0 ∨ s.cfg.bus.xferMax < n) :
    checkLength n s = .error ⟨.preconditionViolation, BitVec.ofNat 16 n⟩ s := by
  unfold checkLength
  rw [bind_look, require_bad]
  rcases h with rfl | h
  · rfl
  · simp [Nat.not_le.mpr h]

theorem getBuf_ok (hr : reg.toNat < regMax s.cfg) (h0 : n ≠ 0) (hn : n ≤ s.cfg.bus.xferMax)
    (hb : busRead s.cfg s.bus (regAddr s.cfg reg.toNat) n = (some bytes, bus)) :
    getBuf reg n s = .ok bytes { s with bus := bus } := by
  unfold getBuf
  rw [bind_of_ok (checkReg_ok hr), bind_of_ok (checkLength_ok h0 hn), transactRead_ok hb]

theorem getBuf_fail (hr : reg.toNat < regMax s.cfg) (h0 : n ≠ 0) (hn : n ≤ s.cfg.bus.xferMax)
    (hb : busRead s.cfg s.bus (regAddr s.cfg reg.toNat) n = (none, bus)) :
    getBuf reg n s = .error ⟨.transportError, reg.setWidth 16⟩ (countError { s with bus := bus }) := by
  unfold getBuf
  rw [bind_of_ok (checkReg_ok hr), bind_of_ok (checkLength_ok h0 hn), transactRead_fail hb]

theorem getBuf_badReg (hr : ¬ reg.toNat < regMax s.cfg) :
    getBuf reg n s = .error ⟨.preconditionViolation, reg.setWidth 16⟩ s := by
  unfold getBuf
  rw [bind_of_error (checkReg_bad hr)]

theorem getBuf_badLength (hr : reg.toNat < regMax s.cfg) (h : n = 0 ∨ s.cfg.bus.xferMax < n) :
    getBuf reg n s = .error ⟨.preconditionViolation, BitVec.ofNat 16 n⟩ s := by
  unfold getBuf
  rw [bind_of_ok (checkReg_ok hr), bind_of_error (checkLength_bad h)]

theorem setBuf_ok (hr : reg.toNat < regMax s.cfg) (h0 : bytes.length ≠ 0) (hn : bytes.length ≤ s.cfg.bus.xferMax)
    (hb : busWrite s.cfg s.bus (regAddr s.cfg reg.toNat) bytes = (true, bus)) :
    setBuf reg bytes s = .ok () { s with bus := bus } := by
  unfold setBuf
  rw [bind_of_ok (checkReg_ok hr), bind_of_ok (checkLength_ok h0 hn), transactWrite_ok hb]

theorem setBuf_fail (hr : reg.toNat < regMax s.cfg) (h0 : bytes.length ≠ 0) (hn : bytes.length ≤ s.cfg.bus.xferMax)
    (hb : busWrite s.cfg s.bus (regAddr s.cfg reg.toNat) bytes = (false, bus)) :
    setBuf reg bytes s = .error ⟨.transportError, reg.setWidth 16⟩ (countError { s with bus := bus }) := by
  unfold setBuf
  rw [bind_of_ok (checkReg_ok hr), bind_of_ok (checkLength_ok h0 hn), transactWrite_fail hb]

theorem setBuf_badReg (hr : ¬ reg.toNat < regMax s.cfg) :
    setBuf reg bytes s = .error ⟨.preconditionViolation, reg.setWidth 16⟩ s := by
  unfold setBuf
  rw [bind_of_error (checkReg_bad hr)]

theorem setBuf_badLength (hr : reg.toNat < regMax s.cfg) (h : bytes.length = 0 ∨ s.cfg.bus.xferMax < bytes.length) :
    setBuf reg bytes s = .error ⟨.preconditionViolation, BitVec.ofNat 16 bytes.length⟩ s := by
  unfold setBuf
  rw [bind_of_ok (checkReg_ok hr), bind_of_error (checkLength_bad h)]

theorem getField_ok (hr : reg.toNat < regMax s.cfg)
    (hb : busRead s.cfg s.bus (regAddr s.cfg reg.toNat) 1 = (some bytes, bus)) :
    getField reg mask s =
      .ok (bytes.getD 0 0 &&& mask) (shadowRead reg (bytes.getD 0 0) { s with bus := bus }) := by
  unfold getField
  rw [bind_of_ok (getByte_ok hr hb)]
  rfl

/-- setField where the merged byte is the one read: no write. -/
theorem setField_same (hr : reg.toNat < regMax s.cfg) (hm : val &&& ~~~mask = 0)
    (hb : busRead s.cfg s.bus (regAddr s.cfg reg.toNat) 1 = (some bytes, bus))
    (he : fieldMerge (bytes.getD 0 0) val mask = bytes.getD 0 0) :
    setField reg val mask s = .ok false (shadowRead reg (bytes.getD 0 0) { s with bus := bus }) := by
  unfold setField
  rw [bind_of_ok (checkReg_ok hr), bind_of_ok (require_ok (beq_iff_eq.mpr hm) _ _), bind_of_ok (getByte_ok hr hb), if_pos he]
  rfl

/-- setField where the merged byte differs: one write of it. -/
theorem setField_write {bus' : Bus} (hr : reg.toNat < regMax s.cfg) (hm : val &&& ~~~mask = 0)
    (hb : busRead s.cfg s.bus (regAddr s.cfg reg.toNat) 1 = (some bytes, bus))
    (he : fieldMerge (bytes.getD 0 0) val mask ≠ bytes.getD 0 0)
    (hw : busWrite s.cfg bus (regAddr s.cfg reg.toNat) [fieldMerge (bytes.getD 0 0) val mask] = (true, bus')) :
    setField reg val mask s = .ok true (shadowWrite reg (fieldMerge (bytes.getD 0 0) val mask)
      { shadowRead reg (bytes.getD 0 0) { s with bus := bus } with bus := bus' }) := by
  have h := setByte_ok (s := shadowRead reg (bytes.getD 0 0) { s with bus := bus }) (bus := bus')
    (val := fieldMerge (bytes.getD 0 0) val mask) hr hw
  unfold setField
  rw [bind_of_ok (checkReg_ok hr), bind_of_ok (require_ok (beq_iff_eq.mpr hm) _ _), bind_of_ok (getByte_ok hr hb), if_neg he, bind_of_ok h]
  rfl

theorem setField_writeFail {bus' : Bus} (hr : reg.toNat < regMax s.cfg) (hm : val &&& ~~~mask = 0)
    (hb : busRead s.cfg s.bus (regAddr s.cfg reg.toNat) 1 = (some bytes, bus))
    (he : fieldMerge (bytes.getD 0 0) val mask ≠ bytes.getD 0 0)
    (hw : busWrite s.cfg bus (regAddr s.cfg reg.toNat) [fieldMerge (bytes.getD 0 0) val mask] = (false, bus')) :
    setField reg val mask s = .error ⟨.transportError, reg.setWidth 16⟩
      (countError { shadowRead reg (bytes.getD 0 0) { s with bus := bus } with bus := bus' }) := by
  have h := setByte_fail (s := shadowRead reg (bytes.getD 0 0) { s with bus := bus }) (bus := bus')
    (val := fieldMerge (bytes.getD 0 0) val mask) hr hw
  unfold setField
  rw [bind_of_ok (checkReg_ok hr), bind_of_ok (require_ok (beq_iff_eq.mpr hm) _ _), bind_of_ok (getByte_ok hr hb), if_neg he, bind_of_error h]

theorem setField_readFail (hr : reg.toNat < regMax s.cfg) (hm : val &&& ~~~mask = 0)
    (hb : busRead s.cfg s.bus (regAddr s.cfg reg.toNat) 1 = (none, bus)) :
    setField reg val mask s =
      .error ⟨.transportError, reg.setWidth 16⟩ (countError { s with bus := bus }) := by
  unfold setField
  rw [bind_of_ok (checkReg_ok hr), bind_of_ok (require_ok (beq_iff_eq.mpr hm) _ _), bind_of_error (getByte_fail hr hb)]

theorem setField_bad (h : ¬ reg.toNat < regMax s.cfg ∨ val &&& ~~~mask ≠ 0) :
    setField reg val mask s = .error ⟨.preconditionViolation, reg.setWidth 16⟩ s := by
  unfold setField
  by_cases hr : reg.toNat < regMax s.cfg
  · have hm := h.resolve_left (not_not.mpr hr)
    rw [bind_of_ok (checkReg_ok hr), bind_of_error (require_bad (beq_eq_false_iff_ne.mpr hm) _ _)]
  · rw [bind_of_error (checkReg_bad hr)]

/-! ### Operand registers -/

theorem getX_setX (r : Nat) (v : U64) (s : State) (k : Nat) :
    getX (setX r v s) k = if k = r ∧ r < 8 then v else getX s k := by
  simp only [getX, setX, Vector.getD]
  by_cases hk : k < 8
  · by_cases h : k = r
    · subst h; simp [hk]
    · have : ¬ (k = r ∧ r < 8) := fun hh => h hh.1
      simp [hk, this, Ne.symm h]
  · have : ¬ (k = r ∧ r < 8) := by omega
    simp [hk, this]

/-- Writing an existing operand register. -/
theorem setX_of_lt {r : Nat} (h : r < 8) (v : U64) (s : State) :
    setX r v s = { s with x := s.x.set r v h } := by
  unfold setX
  congr 1
  apply Vector.ext
  intro i hi
  simp [Vector.getElem_setIfInBounds, Vector.getElem_set]

theorem setX_zero (v : U64) (s : State) : setX 0 v s = { s with x := s.x.set 0 v } := setX_of_lt (by decide) v s

theorem getX_of_lt {r : Nat} (h : r < 8) (s : State) : getX s r = s.x[r] := by
  simp [getX, Vector.getD, h]

/-! ### Relations every register access keeps -/

/-- A relation between states that one bus transaction with its bookkeeping keeps. -/
structure BusRel (R : State → State → Prop) : Prop where
  refl : ∀ s, R s s
  trans : ∀ s t u, R s t → R t u → R s u
  read : ∀ s addr n, R s { s with bus := (busRead s.cfg s.bus addr n).2 }
  write : ∀ s addr bytes, R s { s with bus := (busWrite s.cfg s.bus addr bytes).2 }
  count : ∀ s, R s (countError s)
  shadowRead : ∀ reg v s, R s (shadowRead reg v s)
  shadowWrite : ∀ reg v s, R s (shadowWrite reg v s)

variable {R : State → State → Prop}

theorem keeps_checkReg (h : BusRel R) (reg : Byte) : Keeps R (checkReg reg) :=
  keeps_bind h.trans (keeps_look h.refl _) fun _ => keeps_require h.refl _ _

theorem keeps_checkWordReg (h : BusRel R) (reg : Byte) : Keeps R (checkWordReg reg) :=
  keeps_bind h.trans (keeps_look h.refl _) fun _ =>
    keeps_bind h.trans (keeps_require h.refl _ _) fun _ => keeps_require h.refl _ _

theorem keeps_transactRead (h : BusRel R) (reg : Byte) (n : Nat) : Keeps R (transactRead reg n) := fun s => by
  have hr := h.read s (regAddr s.cfg reg.toNat) n
  cases hb : busRead s.cfg s.bus (regAddr s.cfg reg.toNat) n with
  | mk o bus =>
    rw [hb] at hr
    cases o with
    | some bytes => rw [transactRead_ok hb]; exact hr
    | none => rw [transactRead_fail hb]; exact h.trans _ _ _ hr (h.count _)

theorem keeps_transactWrite (h : BusRel R) (reg : Byte) (bytes : List Byte) :
    Keeps R (transactWrite reg bytes) := fun s => by
  have hr := h.write s (regAddr s.cfg reg.toNat) bytes
  cases hb : busWrite s.cfg s.bus (regAddr s.cfg reg.toNat) bytes with
  | mk o bus =>
    rw [hb] at hr
    cases o with
    | true => rw [transactWrite_ok hb]; exact hr
    | false => rw [transactWrite_fail hb]; exact h.trans _ _ _ hr (h.count _)

theorem keeps_getByte (h : BusRel R) (reg : Byte) : Keeps R (getByte reg) :=
  keeps_bind h.trans (keeps_checkReg h reg) fun _ =>
    keeps_bind h.trans (keeps_transactRead h reg 1) fun _ =>
      keeps_bind h.trans (keeps_update (h.shadowRead reg _)) fun _ => keeps_pure h.refl _

theorem keeps_setByte (h : BusRel R) (reg val : Byte) : Keeps R (setByte reg val) :=
  keeps_bind h.trans (keeps_checkReg h reg) fun _ =>
    keeps_bind h.trans (keeps_transactWrite h reg _) fun _ => keeps_update (h.shadowWrite reg val)

theorem keeps_getWord (h : BusRel R) (reg : Byte) : Keeps R (getWord reg) :=
  keeps_bind h.trans (keeps_checkWordReg h reg) fun _ =>
    keeps_bind h.trans (keeps_transactRead h reg 2) fun _ => keeps_pure h.refl _

theorem keeps_setWord (h : BusRel R) (reg : Byte) (v : U16) : Keeps R (setWord reg v) :=
  keeps_bind h.trans (keeps_checkWordReg h reg) fun _ => keeps_transactWrite h reg _

theorem keeps_checkLength (h : BusRel R) (n : Nat) : Keeps R (checkLength n) :=
  keeps_bind h.trans (keeps_look h.refl _) fun _ => keeps_require h.refl _ _

theorem keeps_getBuf (h : BusRel R) (reg : Byte) (n : Nat) : Keeps R (getBuf reg n) :=
  keeps_bind h.trans (keeps_checkReg h reg) fun _ =>
    keeps_bind h.trans (keeps_checkLength h n) fun _ => keeps_transactRead h reg n

theorem keeps_setBuf (h : BusRel R) (reg : Byte) (bytes : List Byte) : Keeps R (setBuf reg bytes) :=
  keeps_bind h.trans (keeps_checkReg h reg) fun _ =>
    keeps_bind h.trans (keeps_checkLength h _) fun _ => keeps_transactWrite h reg bytes

theorem keeps_getField (h : BusRel R) (reg mask : Byte) : Keeps R (getField reg mask) :=
  keeps_bind h.trans (keeps_getByte h reg) fun _ => keeps_pure h.refl _

theorem keeps_setField (h : BusRel R) (reg val mask : Byte) : Keeps R (setField reg val mask) :=
  keeps_bind h.trans (keeps_checkReg h reg) fun _ =>
    keeps_bind h.trans (keeps_require h.refl _ _) fun _ =>
      keeps_bind h.trans (keeps_getByte h reg) fun _ =>
        keeps_ite _ (keeps_pure h.refl _)
          (keeps_bind h.trans (keeps_setByte h reg _) fun _ => keeps_pure h.refl _)

theorem keeps_setFields (h : BusRel R) (ws : List FieldWrite) : Keeps R (setFields ws) := by
  induction ws with
  | nil => exact keeps_pure h.refl ()
  | cons w ws ih => exact keeps_bind h.trans (keeps_setField h w.reg w.val w.mask) fun _ => ih

theorem keeps_fifoClear (h : BusRel R) : Keeps R fifoClear :=
  keeps_bind h.trans (keeps_look h.refl _) fun _ =>
    keeps_bind h.trans (keeps_setField h _ _ _) fun _ => keeps_pure h.refl _

end Sys2Proof.Machine
end

