-- ==== Sys2Proof/Laws/Endings.lean ====
section
/-! SUPPORT. The two endings of an operation in the statements' terms, the transactions of the statements in the
shared operations' terms, and what a well-formed configuration gives. -/

namespace Sys2Proof.Machine

theorem endOperation_zero (s : State) : endOperation 0 0 s = completed s := rfl

theorem endOperation_fault {st : Byte} (h : st ≠ 0) (info : U16) (s : State) :
    endOperation st info s = faulted st info s := by
  unfold endOperation faulted recordFault
  rw [if_neg h]

theorem statusOf_ne_zero (code : FaultCode) : statusOf code ≠ 0 := by cases code <;> decide

/-- An operation whose procedure returns completes. -/
theorem complete_ok {p : Proc Unit} {s t : State} (h : p s = .ok () t) : complete p s = .next (completed t) :=
  complete_of_ok h

/-- An operation whose procedure raises ends with that fault. -/
theorem complete_fault {p : Proc Unit} {s t : State} {code : FaultCode} {info : U16}
    (h : p s = .error ⟨code, info⟩ t) : complete p s = .next (faulted (statusOf code) info t) := by
  rw [complete_of_error h, endOperation_fault (statusOf_ne_zero code)]

theorem noteRead_eq (reg v : Byte) (s : State) (bus : Bus) :
    shadowRead reg v { s with bus := bus } = { s with dc := noteRead s.cfg reg v s.dc, bus := bus } := rfl

theorem noteWrite_eq (reg v : Byte) (s : State) (bus : Bus) :
    shadowWrite reg v { s with bus := bus } = { s with dc := noteWrite s.cfg reg v s.dc, bus := bus } := rfl

theorem countFailure_eq (s : State) (bus : Bus) :
    countError { s with bus := bus } = { s with dc := countFailure s.dc, bus := bus } := rfl

/-- setField in the statements' terms: a setField that succeeds. -/
theorem setField_done {s : State} {w : FieldWrite} {b : Bus} {dc : DeviceContext} {wrote : Bool}
    (hw : fieldWriteOk s.cfg w = true) (h : fieldDone s.cfg w s.bus s.dc b dc wrote) :
    setField w.reg w.val w.mask s = .ok wrote { s with dc := dc, bus := b } := by
  simp only [fieldWriteOk, Bool.and_eq_true, decide_eq_true_eq, beq_iff_eq] at hw
  obtain ⟨orig, b1, hr, ⟨he, rfl, rfl, rfl⟩ | ⟨he, rfl, hb, rfl⟩⟩ := h
  · exact setField_same hw.1 hw.2 hr he
  · exact setField_write hw.1 hw.2 hr he hb

/-- setField in the statements' terms: a setField of which a transaction fails. -/
theorem setField_fails {s : State} {w : FieldWrite} {b : Bus} {dc : DeviceContext}
    (hw : fieldWriteOk s.cfg w = true) (h : fieldFails s.cfg w s.bus s.dc b dc) :
    setField w.reg w.val w.mask s =
      .error ⟨.transportError, w.reg.setWidth 16⟩ { s with dc := dc, bus := b } := by
  simp only [fieldWriteOk, Bool.and_eq_true, decide_eq_true_eq, beq_iff_eq] at hw
  obtain ⟨hr, rfl⟩ | ⟨orig, b1, hr, he, hb, rfl⟩ := h
  · exact setField_readFail hw.1 hw.2 hr
  · exact setField_writeFail hw.1 hw.2 hr he hb

/-- A burst of setFields that all succeed. -/
theorem setFields_done {ws : List FieldWrite} {s : State} {b : Bus} {dc : DeviceContext}
    (hw : ∀ w ∈ ws, fieldWriteOk s.cfg w = true) (h : burstDone s.cfg ws s.bus s.dc b dc) :
    setFields ws s = .ok () { s with dc := dc, bus := b } := by
  induction ws generalizing s with
  | nil => obtain ⟨rfl, rfl⟩ := h; rfl
  | cons w ws ih =>
    obtain ⟨b1, dc1, wrote, h1, h2⟩ := h
    unfold setFields
    rw [bind_of_ok (setField_done (hw w List.mem_cons_self) h1)]
    exact ih (s := { s with dc := dc1, bus := b1 }) (fun w hm => hw w (List.mem_cons_of_mem _ hm)) h2

/-- A burst of setFields of which one fails, those before it done. -/
theorem setFields_fails {ws : List FieldWrite} {s : State} {reg : Byte} {b : Bus} {dc : DeviceContext}
    (hw : ∀ w ∈ ws, fieldWriteOk s.cfg w = true) (h : burstFails s.cfg ws s.bus s.dc reg b dc) :
    setFields ws s = .error ⟨.transportError, reg.setWidth 16⟩ { s with dc := dc, bus := b } := by
  obtain ⟨done, w, rest, b1, dc1, rfl, rfl, h1, h2⟩ := h
  induction done generalizing s with
  | nil =>
    obtain ⟨rfl, rfl⟩ := h1
    show setFields (w :: rest) s = _
    unfold setFields
    exact bind_of_error (setField_fails (hw w (by simp)) h2) _
  | cons a done ih =>
    obtain ⟨b2, dc2, wrote, h3, h4⟩ := h1
    show setFields (a :: (done ++ w :: rest)) s = _
    unfold setFields
    rw [bind_of_ok (setField_done (hw a (by simp)) h3)]
    exact ih (s := { s with dc := dc2, bus := b2 })
      (fun w hm => hw w (List.mem_cons_of_mem _ hm)) h4 h2

/-- The symbolic ids of a well-formed configuration exist. -/
theorem symbolicId_lt {c : Config} (h : configOk c = true) {id : Byte} (hm : id ∈ symbolicIds c.reg) :
    id.toNat < regMax c := by
  simp only [configOk, registersOk, Bool.and_eq_true, List.all_eq_true, decide_eq_true_eq] at h
  exact h.1.1.1.1.1.1.2 id hm

/-- A flag operand of 0 or 1. -/
theorem flagOperand_ok {v : Byte} {s : State} (h : v.toNat ≤ 1) : flagOperand v s = .ok (decide (v = 1)) s := by
  unfold flagOperand
  rw [bind_of_ok (require_ok (decide_eq_true h) _ _)]
  have hv : v.toNat = 0 ∨ v.toNat = 1 := by omega
  have h01 : v = 0 ∨ v = 1 := hv.imp (fun h => BitVec.eq_of_toNat_eq h) fun h => BitVec.eq_of_toNat_eq h
  rcases h01 with rfl | rfl <;> rfl

/-- Any other flag operand. -/
theorem flagOperand_bad {v : Byte} {s : State} (h : 1 < v.toNat) :
    flagOperand v s = .error ⟨.preconditionViolation, v.setWidth 16⟩ s := by
  unfold flagOperand
  rw [bind_of_error (require_bad (decide_eq_false (by omega)) _ _)]

/-- The enabling and disabling lists of a well-formed configuration are legal setFields. -/
theorem sequence_ok {c : Config} (hc : configOk c = true) (flk : Bool) (t : Trigger) :
    ∀ w ∈ enableSeq c flk t ++ disableSeq c flk, fieldWriteOk c w = true := by
  simp only [configOk, Bool.and_eq_true, sequencesOk, List.all_eq_true] at hc
  intro w hw
  apply hc.2.2
  cases flk <;> cases t <;> simp [enableSeq, disableSeq] at hw ⊢ <;> tauto

/-- The sizes a well-formed configuration has. -/
theorem configOk_sizes {c : Config} (h : configOk c = true) :
    c.winTab.length = winN ∧ 128 ≤ c.flk.fftMax ∧ c.flk.fftMax ≤ 512 ∧ 1 ≤ c.bus.xferMax ∧ c.bus.nLow ≤ 7 ∧
      c.mask.fifoOvf.toNat % 2 ^ c.bus.nLow = 0 := by
  simp only [configOk, Bool.and_eq_true, registersOk, estimatorOk, sequencesOk, beq_iff_eq,
    estimatorOk.isPow2Size, Bool.or_eq_true, decide_eq_true_eq] at h
  refine ⟨h.1.1.2.2, ?_, ?_, h.2.1.1, h.1.1.1.1.2, h.1.1.1.2⟩ <;> omega

end Sys2Proof.Machine
end

