-- ==== Sys2Proof/Laws/Calls.lean ====
section
/-! SUPPORT. Operations called by other operations (00_scope.md R11): what `callReturns` and `callRaises` of the
statements say in terms of the shared procedures, once for each operation that another one calls. -/

namespace Sys2Proof.Machine

/-- Nothing that only an ending or a result writes has changed. -/
structure Quiet (s t : State) : Prop where
  x : t.x = s.x
  pc : t.pc = s.pc
  records : t.records = s.records
  lastErr : t.dc.lastErr = s.dc.lastErr
  faults : t.dc.faults = s.dc.faults

theorem Quiet.refl (s : State) : Quiet s s := ⟨rfl, rfl, rfl, rfl, rfl⟩

theorem Quiet.trans (s t u : State) (h : Quiet s t) (k : Quiet t u) : Quiet s u :=
  ⟨k.x.trans h.x, k.pc.trans h.pc, k.records.trans h.records, k.lastErr.trans h.lastErr, k.faults.trans h.faults⟩

theorem quiet_bus : BusRel Quiet where
  refl := Quiet.refl
  trans := Quiet.trans
  read _ _ _ := ⟨rfl, rfl, rfl, rfl, rfl⟩
  write _ _ _ := ⟨rfl, rfl, rfl, rfl, rfl⟩
  count _ := ⟨rfl, rfl, rfl, rfl, rfl⟩
  shadowRead _ _ _ := ⟨rfl, rfl, rfl, rfl, rfl⟩
  shadowWrite _ _ _ := ⟨rfl, rfl, rfl, rfl, rfl⟩

variable {α β : Type} {i : Instr} {p : Proc α} {s t u : State} {r : U64} {status : Byte} {info : U16}

theorem quiet_bind {k : α → Proc β} (hp : Keeps Quiet p) (hk : ∀ a, Keeps Quiet (k a)) : Keeps Quiet (p >>= k) :=
  keeps_bind Quiet.trans hp hk

theorem quiet_look (f : State → α) : Keeps Quiet (look f) := keeps_look Quiet.refl f
theorem quiet_pure (a : α) : Keeps Quiet (pure a : Proc α) := keeps_pure Quiet.refl a
theorem quiet_raise (code : FaultCode) (info : U16) : Keeps Quiet (raise code info : Proc α) :=
  keeps_raise Quiet.refl code info
theorem quiet_require (ok : Bool) (info : U16) : Keeps Quiet (require ok info) := keeps_require Quiet.refl ok info

/-- The state an ending leaves, seen by the caller, is the one the procedure left. -/
theorem asCalled_ending (h : Quiet s t) (x : Vector U64 8) (status : Byte) (info : U16) :
    asCalled s (endOperation status info { t with x := x }) = t := by
  obtain ⟨tpc, tx, tdc, _, _, _, _, _, _, _, _⟩ := t
  obtain ⟨h1, h2, h3, h4, h5⟩ := h
  simp only at h1 h2 h3 h4 h5
  subst h1 h2 h3
  simp only [asCalled, endOperation, ← h4, ← h5]

/-- Operation `i` is the procedure `p`, which may then write results. -/
def IsProcedure (i : Instr) (p : Proc α) (out : α → State → Vector U64 8) : Prop :=
  Keeps Quiet p ∧ ∀ s, exec i s = complete (p >>= fun a => update fun t => { t with x := out a t }) s

variable {out : α → State → Vector U64 8}

/-- Everything a called operation that returns can do. -/
theorem callReturns_iff (h : IsProcedure i p out) :
    callReturns i s r t ↔ ∃ a, p s = .ok a t ∧ (out a t)[0] = r := by
  have hq := h.1 s
  unfold callReturns calls
  rw [h.2]
  cases hp : p s with
  | error e v =>
    rw [complete_of_error (bind_of_error hp _)]
    refine iff_of_false ?_ (by simp)
    rintro ⟨_, ⟨⟩, hr, -⟩
    exact statusOf_ne_zero _ (by simpa [endOperation] using congrArg (·.head?.map (·.status)) hr)
  | ok a v =>
    replace hq : Quiet s v := by rw [hp] at hq; exact hq
    rw [complete_of_ok (t := { v with x := out a v }) (by rw [bind_of_ok hp]; rfl)]
    have hv := asCalled_ending hq (out a v) 0 0
    have hr : v.records = s.records := hq.records
    constructor
    · rintro ⟨_, ⟨⟩, -, rfl, rfl⟩
      exact ⟨a, by rw [hv], by rw [hv]; rfl⟩
    · rintro ⟨b, hb, rfl⟩
      obtain ⟨rfl, rfl⟩ := (EStateM.Result.ok.injEq ..).mp hb
      exact ⟨_, rfl, by simp [endOperation, hr], rfl, hv.symm⟩

/-- A procedure raises this fault and leaves `t`. -/
def Raises (q : Proc α) (s : State) (status : Byte) (info : U16) (t : State) : Prop :=
  ∃ e, q s = .error e t ∧ statusOf e.code = status ∧ e.info = info

/-- Everything a called operation that raises can do. -/
theorem callRaises_iff (h : IsProcedure i p out) :
    callRaises i s status info t ↔ Raises p s status info t := by
  have hq := h.1 s
  unfold callRaises calls Raises
  rw [h.2]
  cases hp : p s with
  | ok a v =>
    rw [complete_of_ok (t := { v with x := out a v }) (by rw [bind_of_ok hp]; rfl)]
    refine iff_of_false ?_ (by simp)
    rintro ⟨h0, _, _, ⟨⟩, hr, -⟩
    exact h0 (by simpa [endOperation] using (congrArg (·.head?.map (·.status)) hr).symm)
  | error e v =>
    replace hq : Quiet s v := by rw [hp] at hq; exact hq
    rw [complete_of_error (bind_of_error hp _)]
    have hv : asCalled s (endOperation (statusOf e.code) e.info v) = v := asCalled_ending hq v.x _ _
    have hr : v.records = s.records := hq.records
    constructor
    · rintro ⟨-, _, _, ⟨⟩, he, -, rfl⟩
      simp only [endOperation, List.cons.injEq, Completion.mk.injEq] at he
      exact ⟨e, by rw [hv], he.1.1, he.1.2⟩
    · rintro ⟨e', he, rfl, rfl⟩
      obtain ⟨rfl, rfl⟩ := (EStateM.Result.error.injEq ..).mp he
      exact ⟨statusOf_ne_zero _, _, _, rfl, by simp [endOperation, hr], rfl, hv.symm⟩

/-! ### The operations that other operations call -/

/-- A procedure whose operation writes no result. -/
theorem isProcedure_silent {p : Proc Unit} (hq : Keeps Quiet p) (he : ∀ s, exec i s = complete p s) :
    IsProcedure i p fun _ t => t.x := by
  refine ⟨hq, fun s => ?_⟩
  rw [he]
  cases hp : p s with
  | ok a t => rw [complete_of_ok hp, complete_of_ok (t := t) (by rw [bind_of_ok hp]; rfl)]
  | error e t => rw [complete_of_error hp, complete_of_error (bind_of_error hp _)]

theorem quiet_fifoClear : Keeps Quiet fifoClear := keeps_fifoClear quiet_bus

theorem quiet_resetAndAbort : Keeps Quiet resetAndAbort :=
  quiet_bind quiet_fifoClear fun _ => keeps_update fun _ => ⟨rfl, rfl, rfl, rfl, rfl⟩

theorem quiet_drainChunks (fuel rem : Nat) : Keeps Quiet (drainChunks fuel rem) := by
  induction fuel generalizing rem with
  | zero => exact quiet_pure true
  | succ n ih =>
    exact keeps_ite _ (quiet_pure true) (quiet_bind (quiet_look id) fun _ => keeps_ite _ (quiet_pure false)
      (quiet_bind (keeps_getBuf quiet_bus _ _) fun _ =>
        quiet_bind (keeps_update fun _ => ⟨rfl, rfl, rfl, rfl, rfl⟩) fun _ => ih _))

theorem quiet_drain : Keeps Quiet drain :=
  quiet_bind (quiet_look _) fun _ => quiet_bind (keeps_getByte quiet_bus _) fun _ =>
    quiet_bind (keeps_getByte quiet_bus _) fun _ => keeps_ite _
      (quiet_bind quiet_resetAndAbort fun _ => quiet_pure false)
      (quiet_bind (quiet_drainChunks _ _) fun _ => keeps_ite _
        (quiet_bind (keeps_update fun _ => ⟨rfl, rfl, rfl, rfl, rfl⟩) fun _ => quiet_look _)
        (quiet_bind quiet_resetAndAbort fun _ => quiet_pure false))

theorem isProcedure_getb (reg : Byte) :
    IsProcedure (.getb reg) (getByte reg) fun v t => t.x.setIfInBounds 0 (v.setWidth 64) :=
  ⟨keeps_getByte quiet_bus reg, fun _ => rfl⟩

theorem isProcedure_setb (reg val : Byte) : IsProcedure (.setb reg val) (setByte reg val) fun _ t => t.x :=
  isProcedure_silent (keeps_setByte quiet_bus reg val) fun _ => rfl

theorem isProcedure_fifoclr : IsProcedure .fifoclr fifoClear fun _ t => t.x :=
  isProcedure_silent quiet_fifoClear fun _ => rfl

theorem isProcedure_drain : IsProcedure .drain drain fun ready t => t.x.setIfInBounds 0 (flagWord ready) :=
  ⟨quiet_drain, fun _ => rfl⟩

theorem isProcedure_deint : IsProcedure .deint deinterleave fun _ t => t.x :=
  isProcedure_silent (quiet_bind (quiet_look _) fun _ => quiet_bind
    (quiet_bind (quiet_look _) fun _ => quiet_require _ _) fun _ => quiet_bind (quiet_look _) fun _ =>
      quiet_bind (quiet_require _ _) fun _ => keeps_update fun _ => ⟨rfl, rfl, rfl, rfl, rfl⟩) fun _ => rfl

theorem isProcedure_pmeta : IsProcedure .pmeta parseMeta fun _ t => t.x :=
  isProcedure_silent (quiet_bind (quiet_look _) fun _ => quiet_bind (quiet_require _ _) fun _ =>
    keeps_update fun _ => ⟨rfl, rfl, rfl, rfl, rfl⟩) fun _ => rfl

theorem isProcedure_favg : IsProcedure .favg frameAverages fun _ t =>
    (t.x.setIfInBounds 0 (t.flk.avgC.setWidth 64)).setIfInBounds 1 (t.flk.avgW.setWidth 64) :=
  ⟨quiet_bind (quiet_look _) fun _ => quiet_bind (quiet_bind (quiet_look _) fun _ => quiet_require _ _) fun _ =>
    keeps_update fun _ => ⟨rfl, rfl, rfl, rfl, rfl⟩, fun _ => rfl⟩

theorem isProcedure_gnorm : IsProcedure .gnorm gainNormalise fun _ t =>
    (t.x.setIfInBounds 0 t.flk.normC).setIfInBounds 1 t.flk.normW :=
  ⟨quiet_bind (quiet_look _) fun _ => quiet_bind (quiet_look _) fun _ => quiet_bind (quiet_look _) fun _ =>
    quiet_bind (quiet_require _ _) fun _ => quiet_bind (quiet_require _ _) fun _ =>
      keeps_update fun _ => ⟨rfl, rfl, rfl, rfl, rfl⟩, fun _ => rfl⟩

theorem isProcedure_window : IsProcedure .window window fun _ t => t.x.setIfInBounds 0 (flagWord t.flk.satf) :=
  ⟨quiet_bind (quiet_look _) fun _ => quiet_bind (quiet_require _ _) fun _ =>
    keeps_update fun _ => ⟨rfl, rfl, rfl, rfl, rfl⟩, fun _ => rfl⟩

theorem isProcedure_fft (n : U16) : IsProcedure (.fft n) (fft n) fun _ t => t.x := by
  refine isProcedure_silent (quiet_bind (quiet_look _) fun _ => keeps_ite _ (quiet_pure ()) (quiet_bind
    (quiet_require _ _) fun _ => quiet_bind (quiet_look _) fun _ => ?_)) fun _ => rfl
  split
  · exact keeps_update fun _ => ⟨rfl, rfl, rfl, rfl, rfl⟩
  · exact quiet_bind (keeps_update fun _ => ⟨rfl, rfl, rfl, rfl, rfl⟩) fun _ => quiet_raise _ _

theorem isProcedure_mag (n : U16) : IsProcedure (.mag n) (magnitude n) fun _ t => t.x := by
  refine isProcedure_silent (quiet_bind (quiet_look _) fun _ => quiet_bind
    (quiet_require _ _) fun _ => quiet_bind (quiet_look _) fun _ => ?_) fun _ => rfl
  split
  · exact keeps_update fun _ => ⟨rfl, rfl, rfl, rfl, rfl⟩
  · exact quiet_bind (keeps_update fun _ => ⟨rfl, rfl, rfl, rfl, rfl⟩) fun _ => quiet_raise _ _

theorem isProcedure_thresh : IsProcedure .thresh adaptiveThreshold fun _ t => t.x.setIfInBounds 0 t.flk.thresh :=
  ⟨quiet_bind (quiet_look _) fun _ => keeps_ite _ (quiet_raise _ _) (keeps_ite _ (quiet_raise _ _)
    (keeps_update fun _ => ⟨rfl, rfl, rfl, rfl, rfl⟩)), fun _ => rfl⟩

theorem isProcedure_peak : IsProcedure .peak (update findPeak) fun _ t =>
    (t.x.setIfInBounds 0 (t.flk.peakBin.setWidth 64)).setIfInBounds 1 t.flk.peakMag :=
  ⟨keeps_update fun _ => ⟨rfl, rfl, rfl, rfl, rfl⟩, fun _ => rfl⟩

theorem isProcedure_fdecide : IsProcedure .fdecide decideFrequency fun _ t =>
    t.x.setIfInBounds 0 (t.flk.freq.setWidth 64) :=
  ⟨quiet_bind (quiet_look _) fun _ => quiet_bind (quiet_require _ _) fun _ => keeps_ite _
    (keeps_ite _ (quiet_raise _ _) (keeps_update fun _ => ⟨rfl, rfl, rfl, rfl, rfl⟩))
    (keeps_update fun _ => ⟨rfl, rfl, rfl, rfl, rfl⟩), fun _ => rfl⟩

theorem quiet_analyseFrame (n : U16) : Keeps Quiet (analyseFrame n) :=
  quiet_bind isProcedure_deint.1 fun _ => quiet_bind isProcedure_pmeta.1 fun _ =>
    quiet_bind isProcedure_favg.1 fun _ => quiet_bind isProcedure_gnorm.1 fun _ =>
      quiet_bind isProcedure_window.1 fun _ => quiet_bind (isProcedure_fft n).1 fun _ =>
        quiet_bind (isProcedure_mag n).1 fun _ => quiet_bind isProcedure_thresh.1 fun _ =>
          quiet_bind isProcedure_peak.1 fun _ => isProcedure_fdecide.1

theorem isProcedure_flkest :
    IsProcedure .flkest flickerCycle fun done t => t.x.setIfInBounds 0 (flagWord done) :=
  ⟨quiet_bind (keeps_update fun _ => ⟨rfl, rfl, rfl, rfl, rfl⟩) fun _ => quiet_bind quiet_drain fun _ => keeps_ite _
    (quiet_bind (quiet_look _) fun _ => quiet_bind (quiet_look _) fun _ =>
      quiet_bind (keeps_onlyIf Quiet.refl _ (quiet_analyseFrame _)) fun _ => quiet_bind quiet_fifoClear fun _ =>
        quiet_bind (keeps_update fun _ => ⟨rfl, rfl, rfl, rfl, rfl⟩) fun _ => quiet_pure _)
    (quiet_pure false), fun _ => rfl⟩

theorem quiet_alsCompute (clear wide : Nat) : Keeps Quiet (alsCompute clear wide) :=
  quiet_bind (quiet_look _) fun _ => keeps_ite _ (keeps_update fun _ => ⟨rfl, rfl, rfl, rfl, rfl⟩) (quiet_raise _ _)

theorem isProcedure_alssmp : IsProcedure .alssmp alsSample fun _ t => t.x.setIfInBounds 0 t.als.lux :=
  ⟨quiet_bind (quiet_look _) fun _ => quiet_bind (keeps_getBuf quiet_bus _ _) fun _ =>
    quiet_bind (keeps_getByte quiet_bus _) fun _ => quiet_bind (quiet_require _ _) fun _ => quiet_alsCompute _ _,
    fun _ => rfl⟩

theorem isProcedure_alseq : IsProcedure .alseq alsEquivalent fun _ t => t.x.setIfInBounds 0 t.als.lux :=
  ⟨quiet_bind (keeps_update fun _ => ⟨rfl, rfl, rfl, rfl, rfl⟩) fun _ => quiet_bind (quiet_look _) fun _ =>
    quiet_alsCompute _ _, fun _ => rfl⟩

/-! ### The analysis of FLKEST (43_flicker.md R172) -/

/-- The first of several steps that all return. -/
theorem stepsReturn_cons {p q : Proc Unit} {out : Unit → State → Vector U64 8} {rest : List Instr}
    (h : IsProcedure i p out) (hq : ∀ u, stepsReturn rest u t ↔ q u = .ok () t) (s : State) :
    stepsReturn (i :: rest) s t ↔ (p >>= fun _ => q) s = .ok () t := by
  rw [bind_eq_ok]
  constructor
  · rintro ⟨r, u, h1, h2⟩
    obtain ⟨a, ha, -⟩ := (callReturns_iff h).mp h1
    exact ⟨a, u, ha, (hq u).mp h2⟩
  · rintro ⟨a, u, h1, h2⟩
    exact ⟨_, u, (callReturns_iff h).mpr ⟨a, h1, rfl⟩, (hq u).mpr h2⟩

/-- The first of several steps of which one raises. -/
theorem stepsRaise_cons {p q : Proc Unit} {out : Unit → State → Vector U64 8} {rest : List Instr}
    (h : IsProcedure i p out) (hq : ∀ u, stepsRaise rest u status info t ↔ Raises q u status info t) (s : State) :
    stepsRaise (i :: rest) s status info t ↔ Raises (p >>= fun _ => q) s status info t := by
  constructor
  · rintro ⟨before, j, after, u, hl, hb, hr⟩
    cases before with
    | nil =>
      obtain ⟨rfl, rfl⟩ := List.cons.inj hl
      cases hb
      obtain ⟨e, he, h1, h2⟩ := (callRaises_iff h).mp hr
      exact ⟨e, bind_of_error he _, h1, h2⟩
    | cons j' before =>
      obtain ⟨rfl, rfl⟩ := List.cons.inj hl
      obtain ⟨r, v, h1, h2⟩ := hb
      obtain ⟨a, ha, -⟩ := (callReturns_iff h).mp h1
      obtain ⟨e, he, h3⟩ := (hq v).mp ⟨before, j, after, u, rfl, h2, hr⟩
      exact ⟨e, by rw [bind_of_ok ha]; exact he, h3⟩
  · rintro ⟨e, he, h1, h2⟩
    rcases bind_eq_error.mp he with he | ⟨a, v, ha, he⟩
    · exact ⟨[], i, rest, s, rfl, rfl, (callRaises_iff h).mpr ⟨e, he, h1, h2⟩⟩
    · obtain ⟨before, j, after, u, rfl, h3, h4⟩ := (hq v).mpr ⟨e, he, h1, h2⟩
      exact ⟨i :: before, j, after, u, rfl, ⟨_, v, (callReturns_iff h).mpr ⟨a, ha, rfl⟩, h3⟩, h4⟩

/-- The last step, which returns. -/
theorem stepsReturn_last {p : Proc Unit} {out : Unit → State → Vector U64 8} (h : IsProcedure i p out) (s : State) :
    stepsReturn [i] s t ↔ p s = .ok () t := by
  have h := stepsReturn_cons (rest := []) (q := pure ()) (t := t) h (fun u => by simp [stepsReturn, eq_comm]) s
  rwa [show (p >>= fun _ => pure ()) = p from bind_pure p] at h

/-- The last step, which raises. -/
theorem stepsRaise_last {p : Proc Unit} {out : Unit → State → Vector U64 8} (h : IsProcedure i p out) (s : State) :
    stepsRaise [i] s status info t ↔ Raises p s status info t := by
  have h := stepsRaise_cons (rest := []) (q := pure ()) (status := status) (info := info) (t := t) h
    (fun u => by simp [stepsRaise, Raises]) s
  rwa [show (p >>= fun _ => pure ()) = p from bind_pure p] at h

/-- The analysis that returns is its steps, all of which return. -/
theorem analysis_returns (n : U16) : stepsReturn (analysisSteps n) s t ↔ analyseFrame n s = .ok () t :=
  stepsReturn_cons isProcedure_deint (stepsReturn_cons isProcedure_pmeta (stepsReturn_cons isProcedure_favg
    (stepsReturn_cons isProcedure_gnorm (stepsReturn_cons isProcedure_window (stepsReturn_cons (isProcedure_fft n)
      (stepsReturn_cons (isProcedure_mag n) (stepsReturn_cons isProcedure_thresh (stepsReturn_cons isProcedure_peak
        (stepsReturn_last isProcedure_fdecide))))))))) s

/-- The analysis that raises is its steps, of which one raises. -/
theorem analysis_raises (n : U16) :
    stepsRaise (analysisSteps n) s status info t ↔ Raises (analyseFrame n) s status info t :=
  stepsRaise_cons isProcedure_deint (stepsRaise_cons isProcedure_pmeta (stepsRaise_cons isProcedure_favg
    (stepsRaise_cons isProcedure_gnorm (stepsRaise_cons isProcedure_window (stepsRaise_cons (isProcedure_fft n)
      (stepsRaise_cons (isProcedure_mag n) (stepsRaise_cons isProcedure_thresh (stepsRaise_cons isProcedure_peak
        (stepsRaise_last isProcedure_fdecide))))))))) s

end Sys2Proof.Machine
end

