-- ==== Sys2Proof/Laws/Drain.lean ====
section
/-! SUPPORT. What the chunk loop of DRAIN does (42_fifo_parser.md R152): the chunks that were read are appended, and
the loop goes on with what is left. -/

namespace Sys2Proof.Machine

variable {s : State} {fuel pending : Nat} {bus : Bus}

/-- `s` with `bytes` appended to the ring. -/
def appended (bytes : List Byte) (s : State) : State :=
  { s with buf := { s.buf with
      ring := s.buf.ring.take s.buf.ringLen.toNat ++ bytes ++ s.buf.ring.drop (s.buf.ringLen.toNat + bytes.length)
      ringLen := BitVec.ofNat 16 (s.buf.ringLen.toNat + bytes.length) } }

theorem appended_nil (s : State) : appended [] s = s := by simp [appended]

theorem appendRing_eq {bytes : List Byte} (h : s.buf.ringLen.toNat + bytes.length ≤ s.buf.ring.length) :
    appendRing bytes s = appended bytes s := by
  have hl : s.buf.ringLen + BitVec.ofNat 16 bytes.length = BitVec.ofNat 16 (s.buf.ringLen.toNat + bytes.length) := by
    apply BitVec.eq_of_toNat_eq
    simp
  simp only [appendRing, appended, overlay_eq _ _ _ h, hl]

theorem appended_ringLen {a : List Byte} (hl : s.buf.ringLen.toNat + a.length < 65536) :
    (appended a s).buf.ringLen.toNat = s.buf.ringLen.toNat + a.length := by
  simp [appended, Nat.mod_eq_of_lt hl]

theorem appended_ring_length {a : List Byte} (h : s.buf.ringLen.toNat + a.length ≤ s.buf.ring.length) :
    (appended a s).buf.ring.length = s.buf.ring.length := by
  simp [appended]; omega

theorem appended_appended {a b : List Byte} (h : s.buf.ringLen.toNat + a.length + b.length ≤ s.buf.ring.length)
    (hl : s.buf.ringLen.toNat + a.length < 65536) : appended b (appended a s) = appended (a ++ b) s := by
  have hn := appended_ringLen hl
  have htake : (appended a s).buf.ring.take (s.buf.ringLen.toNat + a.length) =
      s.buf.ring.take s.buf.ringLen.toNat ++ a := by
    rw [show (appended a s).buf.ring = s.buf.ring.take s.buf.ringLen.toNat ++ a ++ _ from rfl]
    exact List.take_left' (by simp; omega)
  have hdrop : (appended a s).buf.ring.drop (s.buf.ringLen.toNat + a.length + b.length) =
      s.buf.ring.drop (s.buf.ringLen.toNat + (a ++ b).length) := by
    rw [show (appended a s).buf.ring = s.buf.ring.take s.buf.ringLen.toNat ++ a ++ _ from rfl, ← List.drop_drop,
      List.drop_left' (by simp; omega), List.drop_drop]
    simp [Nat.add_assoc]
  rw [appended, hn, htake, hdrop]
  simp [appended, Nat.add_assoc]

/-- The chunks read so far are appended, and the loop goes on with the bytes that are left. -/
theorem drainChunks_read {chunks : List (List Byte)} (hx : 1 ≤ s.cfg.bus.xferMax)
    (hr : s.cfg.reg.fifoData.toNat < regMax s.cfg) (h : chunksRead s.cfg pending chunks s.bus bus)
    (hf : pending ≤ fuel) (hfit : s.buf.ringLen.toNat + chunks.flatten.length ≤ s.flk.fifoThreshold.toNat)
    (hring : s.flk.fifoThreshold.toNat ≤ s.buf.ring.length) :
    ∃ left, pending - chunks.flatten.length ≤ left ∧
      drainChunks fuel pending s =
        drainChunks left (pending - chunks.flatten.length) (appended chunks.flatten { s with bus := bus }) := by
  induction chunks generalizing s fuel pending with
  | nil =>
    obtain rfl : bus = s.bus := h
    exact ⟨fuel, by simpa using hf, by simp [appended_nil]⟩
  | cons bytes rest ih =>
    obtain ⟨hp, b1, hb, h⟩ := h
    have hlen := busRead_length hb
    have hth := s.flk.fifoThreshold.isLt
    simp only [List.flatten_cons, List.length_append] at hfit ⊢
    obtain ⟨fuel, rfl⟩ : ∃ f, fuel = f + 1 := ⟨fuel - 1, by omega⟩
    have happ : appendRing bytes { s with bus := b1 } = appended bytes { s with bus := b1 } :=
      appendRing_eq (by show s.buf.ringLen.toNat + bytes.length ≤ s.buf.ring.length; omega)
    have hstep : drainChunks (fuel + 1) pending s =
        drainChunks fuel (pending - bytes.length) (appended bytes { s with bus := b1 }) := by
      rw [drainChunks, if_neg (by omega), bind_look]
      simp only [id]
      rw [if_neg (by omega), bind_of_ok (getBuf_ok hr (by omega) (by omega) hb), bind_update, happ, hlen]
    have hl : (appended bytes { s with bus := b1 }).buf.ringLen.toNat = s.buf.ringLen.toNat + bytes.length :=
      appended_ringLen (by show s.buf.ringLen.toNat + bytes.length < 65536; omega)
    obtain ⟨n, hn, he⟩ := ih (s := appended bytes { s with bus := b1 }) (fuel := fuel) (pending := pending - bytes.length)
      hx hr (by rw [hlen]; exact h) (by omega) (by rw [hl]; show _ ≤ s.flk.fifoThreshold.toNat; omega)
      (by rw [appended_ring_length (by show s.buf.ringLen.toNat + bytes.length ≤ s.buf.ring.length; omega)]; exact hring)
    refine ⟨n, by omega, ?_⟩
    rw [hstep, he, show pending - bytes.length - rest.flatten.length = pending - (bytes.length + rest.flatten.length) by omega]
    congr 1
    exact appended_appended (s := { s with bus := bus })
      (by show s.buf.ringLen.toNat + bytes.length + rest.flatten.length ≤ s.buf.ring.length; omega)
      (by show s.buf.ringLen.toNat + bytes.length < 65536; omega)

end Sys2Proof.Machine
end

