-- ==== Sys2Proof/Laws/Fft.lean ====
section
/-! SUPPORT. What a store and a butterfly of FFT can do (41_dsp_kernels.md R130, R135). -/

namespace Sys2Proof.Machine

variable {wr wi : Int} {k p i : Nat} {v : Int} {sp sp' : Spectrum}

/-- A store that returns: the value fits and is in its place. -/
theorem storeRe_ok : storeRe i v sp = .ok sp' ↔
    fitsI64 v = true ∧ sp' = { sp with re := sp.re.set i (BitVec.ofInt 64 v) } := by
  unfold storeRe
  by_cases h : fitsI64 v = true
  · rw [if_pos h, Except.ok.injEq, eq_comm (a := sp')]
    exact (and_iff_right h).symm
  · rw [if_neg h]
    exact iff_of_false (by simp) fun hh => h hh.1

theorem storeIm_ok : storeIm i v sp = .ok sp' ↔
    fitsI64 v = true ∧ sp' = { sp with im := sp.im.set i (BitVec.ofInt 64 v) } := by
  unfold storeIm
  by_cases h : fitsI64 v = true
  · rw [if_pos h, Except.ok.injEq, eq_comm (a := sp')]
    exact (and_iff_right h).symm
  · rw [if_neg h]
    exact iff_of_false (by simp) fun hh => h hh.1

theorem spectrum_bind_ok {r : SpectrumResult} {f : Spectrum → SpectrumResult} :
    r.bind f = .ok sp' ↔ ∃ sp, r = .ok sp ∧ f sp = .ok sp' := by
  cases r <;> simp [Except.bind]

/-- Everything a butterfly that returns has done: the exact sums fit, and the two elements are `u - t` and `u + t`
of the old ones. -/
theorem butterfly_ok (h : butterfly wr wi k p sp = .ok sp') :
    let tr := asr (wr * elem sp.re p - wi * elem sp.im p) 16
    let ti := asr (wr * elem sp.im p + wi * elem sp.re p) 16
    (fitsI64 (elem sp.re k - tr) = true ∧ fitsI64 (elem sp.im k - ti) = true ∧
      fitsI64 (elem sp.re k + tr) = true ∧ fitsI64 (elem sp.im k + ti) = true) ∧
    sp' = ⟨(sp.re.set p (BitVec.ofInt 64 (elem sp.re k - tr))).set k (BitVec.ofInt 64 (elem sp.re k + tr)),
      (sp.im.set p (BitVec.ofInt 64 (elem sp.im k - ti))).set k (BitVec.ofInt 64 (elem sp.im k + ti))⟩ := by
  intro tr ti
  simp only [butterfly] at h
  split at h
  · simp only [spectrum_bind_ok, storeRe_ok, storeIm_ok] at h
    obtain ⟨_, ⟨_, ⟨h1, rfl⟩, h2, rfl⟩, _, ⟨h3, rfl⟩, h4, rfl⟩ := h
    exact ⟨⟨h1, h2, h3, h4⟩, rfl⟩
  · simp at h

end Sys2Proof.Machine
end

