-- ==== Sys2Proof/Laws/Passes.lean ====
section
/-! SUPPORT. Everything a pass of DISPATCH can do (46_dispatch.md R216): the relations of the statements in terms of
the procedures. -/

namespace Sys2Proof.Machine

variable {s t : State} {status : Byte} {info : U16}

/-- The test of the flicker branch. -/
theorem flickerDue_iff (st : Byte) (s : State) :
    (bitSet st s.cfg.mask.stFlk && bitSet s.dc.mode modeFlk) = true ↔ flickerDue st s := by
  have h : ∀ m : BitVec 2, m &&& modeFlk ≠ 0 ↔ m.getLsbD 1 = true := by decide
  simp only [flickerDue, bitSet, Bool.and_eq_true, bne_iff_ne, h]

/-- The test of the ALS branch. -/
theorem alsDue_iff (st : Byte) (s : State) :
    (bitSet st s.cfg.mask.stAls && bitSet s.dc.mode modeAls) = true ↔ alsDue st s := by
  have h : ∀ m : BitVec 2, m &&& modeAls ≠ 0 ↔ m.getLsbD 0 = true := by decide
  simp only [alsDue, bitSet, Bool.and_eq_true, bne_iff_ne, h]

/-- A status read that returns. -/
theorem statusRead_iff (v : Byte) : statusRead s v t ↔ getByte s.cfg.reg.status s = .ok v t := by
  unfold statusRead
  rw [callReturns_iff (isProcedure_getb _)]
  constructor
  · rintro ⟨a, h, h2⟩
    simp only [Vector.getElem_setIfInBounds_self] at h2
    rwa [← show a = v by simpa using congrArg (BitVec.setWidth 8) h2]
  · intro h; exact ⟨v, h, by simp⟩

/-- A called FLKEST that returns. -/
theorem flkest_returns (b : Bool) : callReturns .flkest s (flagWord b) t ↔ flickerCycle s = .ok b t := by
  rw [callReturns_iff isProcedure_flkest]
  constructor
  · rintro ⟨a, h, h2⟩
    simp only [Vector.getElem_setIfInBounds_self] at h2
    rwa [← show a = b by revert h2; cases a <;> cases b <;> decide]
  · intro h; exact ⟨b, h, by simp⟩

/-- Everything the flicker branch can return. -/
theorem flickerServed_iff (st : Byte) : flickerServed st s t ↔ serveFlicker st s = .ok () t := by
  unfold flickerServed serveFlicker
  simp only [bind_look]
  by_cases hd : flickerDue st s
  · rw [(flickerDue_iff st s).mpr hd]
    simp only [hd, not_true_eq_false, false_and, true_and, false_or, onlyIf_true]
    unfold flickerBranch
    rw [bind_eq_ok]
    have h0 : callReturns .flkest s 0 t ↔ _ := flkest_returns false
    have h1 : ∀ u, callReturns .flkest s 1 u ↔ _ := fun u => flkest_returns (t := u) true
    simp only [h0, h1, callReturns_iff isProcedure_alseq]
    constructor
    · rintro (h | ⟨u, lux, v, h, ⟨_, h2, -⟩, rfl⟩)
      · exact ⟨false, t, h, rfl⟩
      · refine ⟨true, u, h, ?_⟩
        simp only [onlyIf_true]
        rw [bind_of_ok h2]; rfl
    · rintro ⟨a, u, h, h2⟩
      cases a with
      | false => cases h2; exact .inl h
      | true =>
        simp only [onlyIf_true] at h2
        obtain ⟨a, v, h3, h4⟩ := bind_eq_ok.mp h2
        cases h4
        exact .inr ⟨u, _, v, h, ⟨a, h3, rfl⟩, rfl⟩
  · have : (bitSet st s.cfg.mask.stFlk && bitSet s.dc.mode modeFlk) = false := by
      rw [← Bool.not_eq_true, flickerDue_iff]; exact hd
    rw [this]
    simp [hd, eq_comm]

/-- Everything the flicker branch can raise. -/
theorem flickerRaises_iff (st : Byte) :
    flickerRaises st s status info t ↔ Raises (serveFlicker st) s status info t := by
  unfold flickerRaises serveFlicker Raises
  simp only [bind_look]
  by_cases hd : flickerDue st s
  · rw [(flickerDue_iff st s).mpr hd]
    simp only [hd, true_and, onlyIf_true]
    unfold flickerBranch
    have h1 : ∀ u, callReturns .flkest s 1 u ↔ _ := fun u => flkest_returns (t := u) true
    simp only [h1, callRaises_iff isProcedure_alseq, callRaises_iff isProcedure_flkest, bind_eq_error, Raises]
    constructor
    · rintro (⟨e, h, h2⟩ | ⟨u, h, e, h2, h3⟩)
      · exact ⟨e, .inl h, h2⟩
      · refine ⟨e, .inr ⟨true, u, h, ?_⟩, h3⟩
        simp only [onlyIf_true]
        rw [bind_of_error h2]
    · rintro ⟨e, h | ⟨a, u, h, h2⟩, h3⟩
      · exact .inl ⟨e, h, h3⟩
      · cases a with
        | false => cases h2
        | true =>
          simp only [onlyIf_true] at h2
          rcases bind_eq_error.mp h2 with h4 | ⟨_, _, _, h4⟩
          · exact .inr ⟨u, h, e, h4, h3⟩
          · cases h4
  · have : (bitSet st s.cfg.mask.stFlk && bitSet s.dc.mode modeFlk) = false := by
      rw [← Bool.not_eq_true, flickerDue_iff]; exact hd
    rw [this]
    simp [hd]

/-- Everything the ALS branch can return. -/
theorem alsServed_iff (st : Byte) : alsServed st s t ↔ serveAls st s = .ok () t := by
  unfold alsServed serveAls
  simp only [bind_look]
  by_cases hd : alsDue st s
  · rw [(alsDue_iff st s).mpr hd]
    simp only [hd, not_true_eq_false, false_and, true_and, false_or, onlyIf_true, callReturns_iff isProcedure_alssmp]
    constructor
    · rintro ⟨_, _, h, -⟩; exact h
    · intro h; exact ⟨_, _, h, rfl⟩
  · have : (bitSet st s.cfg.mask.stAls && bitSet s.dc.mode modeAls) = false := by
      rw [← Bool.not_eq_true, alsDue_iff]; exact hd
    rw [this]
    simp [hd, eq_comm]

/-- Everything the ALS branch can raise. -/
theorem alsRaises_iff (st : Byte) :
    (alsDue st s ∧ callRaises .alssmp s status info t) ↔ Raises (serveAls st) s status info t := by
  unfold serveAls Raises
  simp only [bind_look]
  by_cases hd : alsDue st s
  · rw [(alsDue_iff st s).mpr hd]
    simp only [hd, true_and, onlyIf_true, callRaises_iff isProcedure_alssmp, Raises]
  · have : (bitSet st s.cfg.mask.stAls && bitSet s.dc.mode modeAls) = false := by
      rw [← Bool.not_eq_true, alsDue_iff]; exact hd
    rw [this]
    simp [hd]

/-- Everything the write-back can return. -/
theorem statusWritten_iff (st : Byte) : statusWritten st s t ↔ writeBack st s = .ok () t := by
  unfold statusWritten writeBack
  simp only [bind_look, callReturns_iff (isProcedure_setb _ _)]
  by_cases hd : st = 0
  · simp [hd, eq_comm]
  · simp only [hd, ne_eq, not_false_eq_true, true_and, false_and, false_or,
      (bne_iff_ne (a := st) (b := 0)).mpr hd, onlyIf_true]
    exact ⟨fun ⟨_, _, h⟩ => h.1, fun h => ⟨_, (), h, rfl⟩⟩

/-- Everything the write-back can raise. -/
theorem statusWriteRaises_iff (st : Byte) :
    (st ≠ 0 ∧ callRaises (.setb s.cfg.reg.status st) s status info t) ↔
      Raises (writeBack st) s status info t := by
  unfold writeBack Raises
  simp only [bind_look, callRaises_iff (isProcedure_setb _ _)]
  by_cases hd : st = 0
  · simp [hd]
  · simp [show ¬ st = 0#8 from hd, onlyIf, Raises]

/-- Everything a pass can return. -/
theorem passReturns_iff (st2 : Byte) : passReturns s st2 t ↔ dispatchPass s = .ok st2 t := by
  unfold passReturns dispatchPass
  simp only [readStatus, bind_look, bind_eq_ok, statusRead_iff, flickerServed_iff, alsServed_iff, statusWritten_iff]
  constructor
  · rintro ⟨st, s1, s2, s3, s4, h1, h2, h3, h4, h5⟩
    exact ⟨st, s1, h1, (), s2, h2, (), s3, h3, (), s4, h4, h5⟩
  · rintro ⟨st, s1, h1, _, s2, h2, _, s3, h3, _, s4, h4, h5⟩
    exact ⟨st, s1, s2, s3, s4, h1, h2, h3, h4, h5⟩

/-- Everything a pass can raise. -/
theorem passRaises_iff : passRaises s status info t ↔ Raises dispatchPass s status info t := by
  unfold passRaises dispatchPass Raises
  simp only [readStatus, bind_look, bind_eq_error, statusRead_iff, flickerServed_iff, alsServed_iff, statusWritten_iff,
    flickerRaises_iff, alsRaises_iff, statusWriteRaises_iff, callRaises_iff (isProcedure_getb _), Raises]
  constructor
  · rintro (⟨e, h, h'⟩ | ⟨st, s1, h1, ⟨e, h, h'⟩ | ⟨s2, h2, ⟨e, h, h'⟩ | ⟨s3, h3, ⟨e, h, h'⟩ | ⟨s4, h4, ⟨e, h, h'⟩⟩⟩⟩⟩)
    · exact ⟨e, .inl h, h'⟩
    · exact ⟨e, .inr ⟨st, s1, h1, .inl h⟩, h'⟩
    · exact ⟨e, .inr ⟨st, s1, h1, .inr ⟨_, s2, h2, .inl h⟩⟩, h'⟩
    · exact ⟨e, .inr ⟨st, s1, h1, .inr ⟨_, s2, h2, .inr ⟨_, s3, h3, .inl h⟩⟩⟩, h'⟩
    · exact ⟨e, .inr ⟨st, s1, h1, .inr ⟨_, s2, h2, .inr ⟨_, s3, h3, .inr ⟨_, s4, h4, h⟩⟩⟩⟩, h'⟩
  · rintro ⟨e, h | ⟨st, s1, h1, h | ⟨_, s2, h2, h | ⟨_, s3, h3, h | ⟨_, s4, h4, h⟩⟩⟩⟩, h'⟩
    · exact .inl ⟨e, h, h'⟩
    · exact .inr ⟨st, s1, h1, .inl ⟨e, h, h'⟩⟩
    · exact .inr ⟨st, s1, h1, .inr ⟨s2, h2, .inl ⟨e, h, h'⟩⟩⟩
    · exact .inr ⟨st, s1, h1, .inr ⟨s2, h2, .inr ⟨s3, h3, .inl ⟨e, h, h'⟩⟩⟩⟩
    · exact .inr ⟨st, s1, h1, .inr ⟨s2, h2, .inr ⟨s3, h3, .inr ⟨s4, h4, ⟨e, h, h'⟩⟩⟩⟩⟩

end Sys2Proof.Machine
end

