-- ==== Sys2Proof/Laws/PerInstr.lean ====
section
/-! SUPPORT. What is said of every operation as syntax, one lemma for each constructor. -/

namespace Sys2Proof

theorem pack_and (op a b c op' a' b' c' : Byte) :
    pack op a b c &&& pack op' a' b' c' = pack (op &&& op') (a &&& a') (b &&& b') (c &&& c') := by
  refine BitVec.and_append.trans (congrArg (· ++ (c &&& c')) ?_)
  exact BitVec.and_append.trans (congrArg (· ++ (b &&& b')) BitVec.and_append)

theorem packImm_and (op a op' a' : Byte) (i i' : U16) :
    packImm op a i &&& packImm op' a' i' = packImm (op &&& op') (a &&& a') (i &&& i') :=
  BitVec.and_append.trans (congrArg (· ++ (i &&& i')) BitVec.and_append)

end Sys2Proof

namespace Sys2Proof.Laws.EncodeMatchesRow

/-- The word of an operation is one of a row of the opcode table (30_encoding.md R91, R93). -/
def Statement (i : Instr) : Prop := ∃ row ∈ opcodeRows, encode i &&& row.2 = row.1

theorem nop : Statement (.nop) :=
  ⟨(0x00000000, 0xFFFFFFFF), by decide, by
    change pack 0x00 0 0 0 &&& pack 255 255 255 255 = pack 0x00 0 0 0
    rw [pack_and]; simp⟩

theorem xli (a : Byte) (i : U16) : Statement (.xli a i) :=
  ⟨(0x01000000, 0xFF000000), by decide, by
    change packImm 0x01 a i &&& packImm 255 0 0 = packImm 0x01 0 0
    rw [packImm_and]; simp⟩

theorem xlih (a : Byte) (i : U16) : Statement (.xlih a i) :=
  ⟨(0x02000000, 0xFF000000), by decide, by
    change packImm 0x02 a i &&& packImm 255 0 0 = packImm 0x02 0 0
    rw [packImm_and]; simp⟩

theorem xmov (a : Byte) (b : Byte) : Statement (.xmov a b) :=
  ⟨(0x03000000, 0xFF0000FF), by decide, by
    change pack 0x03 a b 0 &&& pack 255 0 0 255 = pack 0x03 0 0 0
    rw [pack_and]; simp⟩

theorem brd (a : Byte) (i : U16) : Statement (.brd a i) :=
  ⟨(0x04000000, 0xFF000000), by decide, by
    change packImm 0x04 a i &&& packImm 255 0 0 = packImm 0x04 0 0
    rw [packImm_and]; simp⟩

theorem bwr (a : Byte) (i : U16) : Statement (.bwr a i) :=
  ⟨(0x05000000, 0xFF000000), by decide, by
    change packImm 0x05 a i &&& packImm 255 0 0 = packImm 0x05 0 0
    rw [packImm_and]; simp⟩

theorem getb (a : Byte) : Statement (.getb a) :=
  ⟨(0x10000000, 0xFF00FFFF), by decide, by
    change pack 0x10 a 0 0 &&& pack 255 0 255 255 = pack 0x10 0 0 0
    rw [pack_and]; simp⟩

theorem setb (a : Byte) (b : Byte) : Statement (.setb a b) :=
  ⟨(0x11000000, 0xFF0000FF), by decide, by
    change pack 0x11 a b 0 &&& pack 255 0 0 255 = pack 0x11 0 0 0
    rw [pack_and]; simp⟩

theorem getw (a : Byte) : Statement (.getw a) :=
  ⟨(0x12000000, 0xFF00FFFF), by decide, by
    change pack 0x12 a 0 0 &&& pack 255 0 255 255 = pack 0x12 0 0 0
    rw [pack_and]; simp⟩

theorem setw (a : Byte) (i : U16) : Statement (.setw a i) :=
  ⟨(0x13000000, 0xFF000000), by decide, by
    change packImm 0x13 a i &&& packImm 255 0 0 = packImm 0x13 0 0
    rw [packImm_and]; simp⟩

theorem getbuf (a : Byte) (b : Byte) : Statement (.getbuf a b) :=
  ⟨(0x14000000, 0xFF0000FF), by decide, by
    change pack 0x14 a b 0 &&& pack 255 0 0 255 = pack 0x14 0 0 0
    rw [pack_and]; simp⟩

theorem setbuf (a : Byte) (b : Byte) : Statement (.setbuf a b) :=
  ⟨(0x15000000, 0xFF0000FF), by decide, by
    change pack 0x15 a b 0 &&& pack 255 0 0 255 = pack 0x15 0 0 0
    rw [pack_and]; simp⟩

theorem getf (a : Byte) (b : Byte) : Statement (.getf a b) :=
  ⟨(0x16000000, 0xFF0000FF), by decide, by
    change pack 0x16 a b 0 &&& pack 255 0 0 255 = pack 0x16 0 0 0
    rw [pack_and]; simp⟩

theorem setf (a : Byte) (b : Byte) (c : Byte) : Statement (.setf a b c) :=
  ⟨(0x17000000, 0xFF000000), by decide, by
    change pack 0x17 a b c &&& pack 255 0 0 0 = pack 0x17 0 0 0
    rw [pack_and]; simp⟩

theorem ident : Statement (.ident) :=
  ⟨(0x18000000, 0xFFFFFFFF), by decide, by
    change pack 0x18 0 0 0 &&& pack 255 255 255 255 = pack 0x18 0 0 0
    rw [pack_and]; simp⟩

theorem isqrt : Statement (.isqrt) :=
  ⟨(0x20000000, 0xFFFFFFFF), by decide, by
    change pack 0x20 0 0 0 &&& pack 255 255 255 255 = pack 0x20 0 0 0
    rw [pack_and]; simp⟩

theorem wingen : Statement (.wingen) :=
  ⟨(0x21000000, 0xFFFFFFFF), by decide, by
    change pack 0x21 0 0 0 &&& pack 255 255 255 255 = pack 0x21 0 0 0
    rw [pack_and]; simp⟩

theorem window : Statement (.window) :=
  ⟨(0x22000000, 0xFFFFFFFF), by decide, by
    change pack 0x22 0 0 0 &&& pack 255 255 255 255 = pack 0x22 0 0 0
    rw [pack_and]; simp⟩

theorem fft (i : U16) : Statement (.fft i) :=
  ⟨(0x23000000, 0xFFFF0000), by decide, by
    change packImm 0x23 0 i &&& packImm 255 255 0 = packImm 0x23 0 0
    rw [packImm_and]; simp⟩

theorem mag (i : U16) : Statement (.mag i) :=
  ⟨(0x24000000, 0xFFFF0000), by decide, by
    change packImm 0x24 0 i &&& packImm 255 255 0 = packImm 0x24 0 0
    rw [packImm_and]; simp⟩

theorem drain : Statement (.drain) :=
  ⟨(0x30000000, 0xFFFFFFFF), by decide, by
    change pack 0x30 0 0 0 &&& pack 255 255 255 255 = pack 0x30 0 0 0
    rw [pack_and]; simp⟩

theorem deint : Statement (.deint) :=
  ⟨(0x31000000, 0xFFFFFFFF), by decide, by
    change pack 0x31 0 0 0 &&& pack 255 255 255 255 = pack 0x31 0 0 0
    rw [pack_and]; simp⟩

theorem pmeta : Statement (.pmeta) :=
  ⟨(0x32000000, 0xFFFFFFFF), by decide, by
    change pack 0x32 0 0 0 &&& pack 255 255 255 255 = pack 0x32 0 0 0
    rw [pack_and]; simp⟩

theorem fifoclr : Statement (.fifoclr) :=
  ⟨(0x33000000, 0xFFFFFFFF), by decide, by
    change pack 0x33 0 0 0 &&& pack 255 255 255 255 = pack 0x33 0 0 0
    rw [pack_and]; simp⟩

theorem favg : Statement (.favg) :=
  ⟨(0x40000000, 0xFFFFFFFF), by decide, by
    change pack 0x40 0 0 0 &&& pack 255 255 255 255 = pack 0x40 0 0 0
    rw [pack_and]; simp⟩

theorem gnorm : Statement (.gnorm) :=
  ⟨(0x41000000, 0xFFFFFFFF), by decide, by
    change pack 0x41 0 0 0 &&& pack 255 255 255 255 = pack 0x41 0 0 0
    rw [pack_and]; simp⟩

theorem thresh : Statement (.thresh) :=
  ⟨(0x42000000, 0xFFFFFFFF), by decide, by
    change pack 0x42 0 0 0 &&& pack 255 255 255 255 = pack 0x42 0 0 0
    rw [pack_and]; simp⟩

theorem peak : Statement (.peak) :=
  ⟨(0x43000000, 0xFFFFFFFF), by decide, by
    change pack 0x43 0 0 0 &&& pack 255 255 255 255 = pack 0x43 0 0 0
    rw [pack_and]; simp⟩

theorem fdecide : Statement (.fdecide) :=
  ⟨(0x44000000, 0xFFFFFFFF), by decide, by
    change pack 0x44 0 0 0 &&& pack 255 255 255 255 = pack 0x44 0 0 0
    rw [pack_and]; simp⟩

theorem b2mhz : Statement (.b2mhz) :=
  ⟨(0x45000000, 0xFFFFFFFF), by decide, by
    change pack 0x45 0 0 0 &&& pack 255 255 255 255 = pack 0x45 0 0 0
    rw [pack_and]; simp⟩

theorem mhz2b : Statement (.mhz2b) :=
  ⟨(0x46000000, 0xFFFFFFFF), by decide, by
    change pack 0x46 0 0 0 &&& pack 255 255 255 255 = pack 0x46 0 0 0
    rw [pack_and]; simp⟩

theorem flkest : Statement (.flkest) :=
  ⟨(0x47000000, 0xFFFFFFFF), by decide, by
    change pack 0x47 0 0 0 &&& pack 255 255 255 255 = pack 0x47 0 0 0
    rw [pack_and]; simp⟩

theorem l2c : Statement (.l2c) :=
  ⟨(0x50000000, 0xFFFFFFFF), by decide, by
    change pack 0x50 0 0 0 &&& pack 255 255 255 255 = pack 0x50 0 0 0
    rw [pack_and]; simp⟩

theorem c2l : Statement (.c2l) :=
  ⟨(0x51000000, 0xFFFFFFFF), by decide, by
    change pack 0x51 0 0 0 &&& pack 255 255 255 255 = pack 0x51 0 0 0
    rw [pack_and]; simp⟩

theorem agcen (a : Byte) : Statement (.agcen a) :=
  ⟨(0x52000000, 0xFF00FFFF), by decide, by
    change pack 0x52 a 0 0 &&& pack 255 0 255 255 = pack 0x52 0 0 0
    rw [pack_and]; simp⟩

theorem agcsat (a : Byte) : Statement (.agcsat a) :=
  ⟨(0x53000000, 0xFF00FFFF), by decide, by
    change pack 0x53 a 0 0 &&& pack 255 0 255 255 = pack 0x53 0 0 0
    rw [pack_and]; simp⟩

theorem agcpred (a : Byte) : Statement (.agcpred a) :=
  ⟨(0x54000000, 0xFF00FFFF), by decide, by
    change pack 0x54 a 0 0 &&& pack 255 0 255 255 = pack 0x54 0 0 0
    rw [pack_and]; simp⟩

theorem agcwin (a : Byte) : Statement (.agcwin a) :=
  ⟨(0x55000000, 0xFF00FFFF), by decide, by
    change pack 0x55 a 0 0 &&& pack 255 0 255 255 = pack 0x55 0 0 0
    rw [pack_and]; simp⟩

theorem agcmaxg (a : Byte) (b : Byte) : Statement (.agcmaxg a b) :=
  ⟨(0x56000000, 0xFF0000FF), by decide, by
    change pack 0x56 a b 0 &&& pack 255 0 0 255 = pack 0x56 0 0 0
    rw [pack_and]; simp⟩

theorem alssmp : Statement (.alssmp) :=
  ⟨(0x60000000, 0xFFFFFFFF), by decide, by
    change pack 0x60 0 0 0 &&& pack 255 255 255 255 = pack 0x60 0 0 0
    rw [pack_and]; simp⟩

theorem alscalc : Statement (.alscalc) :=
  ⟨(0x61000000, 0xFFFFFFFF), by decide, by
    change pack 0x61 0 0 0 &&& pack 255 255 255 255 = pack 0x61 0 0 0
    rw [pack_and]; simp⟩

theorem alseq : Statement (.alseq) :=
  ⟨(0x62000000, 0xFFFFFFFF), by decide, by
    change pack 0x62 0 0 0 &&& pack 255 255 255 255 = pack 0x62 0 0 0
    rw [pack_and]; simp⟩

theorem dispatch : Statement (.dispatch) :=
  ⟨(0x70000000, 0xFFFFFFFF), by decide, by
    change pack 0x70 0 0 0 &&& pack 255 255 255 255 = pack 0x70 0 0 0
    rw [pack_and]; simp⟩

theorem featen (a : Byte) (b : Byte) : Statement (.featen a b) :=
  ⟨(0x71000000, 0xFF0000FF), by decide, by
    change pack 0x71 a b 0 &&& pack 255 0 0 255 = pack 0x71 0 0 0
    rw [pack_and]; simp⟩

theorem featdis (a : Byte) : Statement (.featdis a) :=
  ⟨(0x72000000, 0xFF00FFFF), by decide, by
    change pack 0x72 a 0 0 &&& pack 255 0 255 255 = pack 0x72 0 0 0
    rw [pack_and]; simp⟩

theorem setthr (i : U16) : Statement (.setthr i) :=
  ⟨(0x73000000, 0xFFFF0000), by decide, by
    change packImm 0x73 0 i &&& packImm 255 255 0 = packImm 0x73 0 0
    rw [packImm_and]; simp⟩

theorem getals : Statement (.getals) :=
  ⟨(0x74000000, 0xFFFFFFFF), by decide, by
    change pack 0x74 0 0 0 &&& pack 255 255 255 255 = pack 0x74 0 0 0
    rw [pack_and]; simp⟩

theorem getflk : Statement (.getflk) :=
  ⟨(0x75000000, 0xFFFFFFFF), by decide, by
    change pack 0x75 0 0 0 &&& pack 255 255 255 255 = pack 0x75 0 0 0
    rw [pack_and]; simp⟩

end Sys2Proof.Laws.EncodeMatchesRow
end

