-- ==== Sys2Proof/Tests/Slice0.lean ====
section
/-! SUPPORT. The model's own tests: the operand checks, decoding, one or two results of each operation (taken from
95_test_vectors.md), and for every statement with hypotheses a state and operands that meet them. -/

namespace Sys2Proof.Tests

open Sys2Proof Sys2Proof.Machine

set_option Elab.async false

/-! ### Operand checks: an ill-formed term for each, and its neighbour at the boundary -/

theorem test_wf_refuses :
    ∀ i ∈ ([.xli 8 0, .xlih 8 0, .xmov 8 0, .xmov 0 8, .brd 12 0, .bwr 5 0, .bwr 6 0, .bwr 8 0, .getbuf 10 0,
        .setbuf 10 0, .setf 16 3 2, .fft 0, .mag 0, .agcen 2, .agcsat 2, .agcpred 2, .agcmaxg 2 0, .agcmaxg 0 14,
        .featen 2 0, .featen 0 2, .featdis 2, .setthr 0] : List Instr), i.wf = false := by decide

theorem test_wf_accepts :
    ∀ i ∈ ([.xli 7 0, .xlih 7 0, .xmov 7 7, .brd 11 0, .bwr 4 0, .bwr 7 0, .getbuf 10 1, .setbuf 10 255, .setf 16 2 2,
        .fft 1, .mag 1, .agcen 1, .agcsat 0, .agcpred 1, .agcmaxg 1 13, .featen 1 1, .featdis 1, .setthr 1] : List Instr),
      i.wf = true := by decide

/-! ### Decoding (30_encoding.md R90 to R95): op, a, b, c bit by bit -/

theorem test_decode_host_utilities :
    decode 0b00000000_00000000_00000000_00000000 = .ok .nop ∧
    decode 0b00000001_00000001_01000000_00000000 = .ok (.xli 1 0x4000) ∧
    decode 0b00000010_00000111_10000000_00000001 = .ok (.xlih 7 0x8001) ∧
    decode 0b00000011_00000001_00000110_00000000 = .ok (.xmov 1 6) ∧
    decode 0b00000100_00000100_00000000_00001010 = .ok (.brd 4 10) ∧
    decode 0b00000101_00000010_00000001_00000011 = .ok (.bwr 2 0x103) := by decide

theorem test_decode_register_access :
    decode 0b00010000_00010011_00000000_00000000 = .ok (.getb 19) ∧
    decode 0b00010001_00010001_00010000_00000000 = .ok (.setb 17 16) ∧
    decode 0b00010010_00000100_00000000_00000000 = .ok (.getw 4) ∧
    decode 0b00010011_00000100_00000010_00000100 = .ok (.setw 4 0x204) ∧
    decode 0b00010100_00001010_00000100_00000000 = .ok (.getbuf 10 4) ∧
    decode 0b00010101_00001010_00100000_00000000 = .ok (.setbuf 10 32) ∧
    decode 0b00010110_00001001_11110000_00000000 = .ok (.getf 9 240) ∧
    decode 0b00010111_00010000_00000011_00000010 = .ok (.setf 16 3 2) ∧
    decode 0b00011000_00000000_00000000_00000000 = .ok .ident := by decide

theorem test_decode_dsp_kernels :
    decode 0b00100000_00000000_00000000_00000000 = .ok .isqrt ∧
    decode 0b00100001_00000000_00000000_00000000 = .ok .wingen ∧
    decode 0b00100010_00000000_00000000_00000000 = .ok .window ∧
    decode 0b00100011_00000000_00000000_10000000 = .ok (.fft 128) ∧
    decode 0b00100100_00000000_00000001_10000000 = .ok (.mag 0x180) := by decide

theorem test_decode_fifo :
    decode 0b00110000_00000000_00000000_00000000 = .ok .drain ∧
    decode 0b00110001_00000000_00000000_00000000 = .ok .deint ∧
    decode 0b00110010_00000000_00000000_00000000 = .ok .pmeta ∧
    decode 0b00110011_00000000_00000000_00000000 = .ok .fifoclr := by decide

theorem test_decode_flicker :
    decode 0b01000000_00000000_00000000_00000000 = .ok .favg ∧
    decode 0b01000001_00000000_00000000_00000000 = .ok .gnorm ∧
    decode 0b01000010_00000000_00000000_00000000 = .ok .thresh ∧
    decode 0b01000011_00000000_00000000_00000000 = .ok .peak ∧
    decode 0b01000100_00000000_00000000_00000000 = .ok .fdecide ∧
    decode 0b01000101_00000000_00000000_00000000 = .ok .b2mhz ∧
    decode 0b01000110_00000000_00000000_00000000 = .ok .mhz2b ∧
    decode 0b01000111_00000000_00000000_00000000 = .ok .flkest := by decide

theorem test_decode_agc :
    decode 0b01010000_00000000_00000000_00000000 = .ok .l2c ∧
    decode 0b01010001_00000000_00000000_00000000 = .ok .c2l ∧
    decode 0b01010010_00000001_00000000_00000000 = .ok (.agcen 1) ∧
    decode 0b01010011_00000001_00000000_00000000 = .ok (.agcsat 1) ∧
    decode 0b01010100_00000001_00000000_00000000 = .ok (.agcpred 1) ∧
    decode 0b01010101_11110000_00000000_00000000 = .ok (.agcwin 240) ∧
    decode 0b01010110_00000001_00001001_00000000 = .ok (.agcmaxg 1 9) := by decide

theorem test_decode_als :
    decode 0b01100000_00000000_00000000_00000000 = .ok .alssmp ∧
    decode 0b01100001_00000000_00000000_00000000 = .ok .alscalc ∧
    decode 0b01100010_00000000_00000000_00000000 = .ok .alseq := by decide

theorem test_decode_dispatcher :
    decode 0b01110000_00000000_00000000_00000000 = .ok .dispatch ∧
    decode 0b01110001_00000000_00000001_00000000 = .ok (.featen 0 1) ∧
    decode 0b01110010_00000001_00000000_00000000 = .ok (.featdis 1) ∧
    decode 0b01110011_00000000_00000010_00000100 = .ok (.setthr 0x204) ∧
    decode 0b01110100_00000000_00000000_00000000 = .ok .getals ∧
    decode 0b01110101_00000000_00000000_00000000 = .ok .getflk := by decide
/-- V-ENC-2: the illegal words and why. -/
theorem test_illegal_words :
    decode 0x00000001 = .error (.unusedFieldNonzero 0x00) ∧ decode 0x06000000 = .error (.unassignedOpcode 0x06) ∧
    decode 0xFF000000 = .error (.unassignedOpcode 0xFF) ∧ decode 0x10130100 = .error (.unusedFieldNonzero 0x10) ∧
    decode 0x20000001 = .error (.unusedFieldNonzero 0x20) ∧ decode 0x23010008 = .error (.unusedFieldNonzero 0x23) ∧
    decode 0x76000000 = .error (.unassignedOpcode 0x76) ∧ decode 0x0F000000 = .error (.unassignedOpcode 0x0F) ∧
    decode 0x73010204 = .error (.unusedFieldNonzero 0x73) ∧ decode 0x18000100 = .error (.unusedFieldNonzero 0x18) := by
  decide

theorem test_truncated_bytes : decodeBytes [0x00, 0x00, 0x00] = .error .truncated := by decide

theorem test_byte_order : decodeBytes [0x00, 0x40, 0x01, 0x01, 0xAA] = .ok (.xli 1 0x4000, [0xAA]) := by decide

theorem test_no_two_rows_overlap :
    opcodeRows.Pairwise fun r q => (r.1 ^^^ q.1) &&& r.2 &&& q.2 ≠ 0 := by decide +kernel

/-! ### One step of each operation (95_test_vectors.md, the V- vector named beside it) -/

/-- Hard reset with configuration `c` on the reset SIMDEV. -/
def sim (c : Config) : State := State.attach c ⟨.sim simDevReset, []⟩ []

/-- Hard reset with `CFG_REF` on a device that answers so. -/
def orc (script : List BusAnswer) : State := State.attach cfgRef ⟨.oracle script 0, []⟩ []

/-- The reset SIMDEV after its test script did this (20_memory.md R78). -/
def simWith (acts : List DeviceAct) : State :=
  State.attach cfgRef ⟨acts.foldl deviceAct (.sim simDevReset), []⟩ []

/-- The next state answered has this property. -/
def after (o : Outcome) (p : State → Bool) : Bool :=
  match o with
  | .next t => p t
  | _ => false

/-- The last completion record is this one. -/
def ended (status : Byte) (info : U16) (t : State) : Bool := t.records.head? == some ⟨status, info⟩

/-- `x[1]` set by HOST. -/
def withX1 (v : U64) (s : State) : State := setX 1 v s

/-- V-ENC-2 (first word) issued as a command: refused with (2, 0). -/
theorem test_illegal_command :
    after (step { sim cfgRef with inbox := [.command 0x00000001 []] }) (fun t =>
      ended 2 0 t && t.pc == 1 && t.dc.faults == 4 && t.bus.log == []) = true := by decide +kernel

/-- 60_exceptions.md R266. -/
theorem test_busy :
    after (step { sim cfgRef with inbox := [.command 0x00000000 [0x20000000]] }) (fun t =>
      t.records == [⟨0, 0⟩, ⟨7, 0⟩] && t.pc == 1 && t.dc.faults == 0x80 && t.dc.lastErr == 0) = true := by decide +kernel

theorem test_withFetchWord :
    after (step ((sim cfgRef).withFetchWord 32 0x01014000)) (fun t => getX t 1 == 0x4000 && t.pc == 1) = true := by
  decide +kernel

theorem test_nop : after (exec .nop (sim cfgRef)) (fun t => t == completed (sim cfgRef)) = true := by decide +kernel

/-- V-HOST-1. -/
theorem test_xli : after (exec (.xli 1 0x4000) (withX1 (-1) (sim cfgRef))) (fun t => getX t 1 == 0x4000) = true := by
  decide +kernel

/-- V-HOST-1: the old top 16 bits are lost. -/
theorem test_xlih : after (exec (.xlih 1 1) (withX1 0xABCD400000000000 (sim cfgRef))) (fun t =>
    getX t 1 == 0x4000000000000001) = true := by decide +kernel

theorem test_xmov : after (exec (.xmov 5 1) (withX1 77 (sim cfgRef))) (fun t =>
    getX t 5 == 77 && getX t 1 == 77) = true := by decide +kernel

/-- V-HOST-2. -/
theorem test_xmov_refused : after (exec (.xmov 0 9) (sim cfgRef)) (ended 3 9) = true := by decide +kernel

/-- V-HOST-3: GAIN_TAB[13]. -/
theorem test_brd_gain : after (exec (.brd 10 13) (sim cfgRef)) (fun t => getX t 0 == 8192000) = true := by
  decide +kernel

/-- V-HOST-3: COS_TAB[256] sign-extended. -/
theorem test_brd_cos : after (exec (.brd 8 256) (sim cfgRef)) (fun t => getX t 0 == 0xFFFFFFFFFFFF0000) = true := by
  decide +kernel

/-- V-HOST-4. -/
theorem test_bwr : after (exec (.bwr 1 2) (withX1 0x12345 (sim cfgRef))) (fun t =>
    t.buf.wide.take 4 == [0, 0, 0x2345, 0]) = true := by decide +kernel

/-- V-HOST-4: RING is read-only. -/
theorem test_bwr_refused : after (exec (.bwr 6 0) (sim cfgRef)) (ended 3 6) = true := by decide +kernel

/-- P2. -/
theorem test_getb : after (exec (.getb 0x13) (sim cfgRef)) (fun t =>
    getX t 0 == 0x5A && t.bus.log == [.read 0x93 1 (some [0x5A])]) = true := by decide +kernel

/-- P2: a failed transaction. -/
theorem test_getb_fails : after (exec (.getb 0x13) (simWith [.outcomes [false]])) (fun t =>
    ended 1 0x13 t && t.dc.errcnt == 1 && t.dc.faults == 2 && getX t 0 == 0) = true := by decide +kernel

/-- P2: the shadow follows the write. -/
theorem test_setb : after (exec (.setb 0 0x41) (sim cfgRef)) (fun t =>
    t.dc.shEnable == 0x41 && t.bus.log == [.write 0x80 [0x41] true]) = true := by decide +kernel

/-- P2: low byte first. -/
theorem test_getw : after (exec (.getw 4) (simWith [.poke 0x84 0x04, .poke 0x85 0x02])) (fun t =>
    getX t 0 == 0x0204 && t.bus.log == [.read 0x84 2 (some [4, 2])]) = true := by decide +kernel

/-- P2. -/
theorem test_setw : after (exec (.setw 4 0x0204) (sim cfgRef)) (fun t =>
    t.bus.log == [.write 0x84 [0x04, 0x02] true]) = true := by decide +kernel

/-- V-REG-3. -/
theorem test_getbuf : after (exec (.getbuf 10 4) (simWith [.poke 0x8A 0xE8, .poke 0x8D 7])) (fun t =>
    t.buf.xfer.take 5 == [0xE8, 0, 0, 7, 0]) = true := by decide +kernel

/-- V-REG-3. -/
theorem test_getbuf_refused : after (exec (.getbuf 10 33) (sim cfgRef)) (ended 3 33) = true := by decide +kernel

theorem test_setbuf : after (exec (.setbuf 10 2) (sim cfgRef)) (fun t =>
    t.bus.log == [.write 0x8A [0, 0] true]) = true := by decide +kernel

/-- P2: masked, not shifted down. -/
theorem test_getf : after (exec (.getf 9 0xF0) (simWith [.poke 0x89 0x31])) (fun t => getX t 0 == 0x30) = true := by
  decide +kernel

/-- P2: a change is written. -/
theorem test_setf : after (exec (.setf 16 2 2) (sim cfgRef)) (fun t => getX t 0 == 1 &&
    t.bus.log == [.write 0x90 [2] true, .read 0x90 1 (some [0])]) = true := by decide +kernel

/-- P2: no change, no write. -/
theorem test_setf_same : after (exec (.setf 16 2 2) (simWith [.poke 0x90 2])) (fun t => getX t 0 == 0 &&
    t.bus.log == [.read 0x90 1 (some [2])]) = true := by decide +kernel

/-- V-REG-4: the second entry. -/
theorem test_ident : after (exec .ident (simWith [.poke 0x94 0])) (fun t =>
    getX t 0 == 1 && t.dc.variant == some 1) = true := by decide +kernel

/-- V-REG-4: no entry. -/
theorem test_ident_unknown : after (exec .ident (simWith [.poke 0x93 0x10])) (fun t =>
    ended 8 0x10 t && t.dc.variant == none && t.dc.faults == 0x100) = true := by decide +kernel

/-- V-ISQRT. -/
theorem test_isqrt :
    after (exec .isqrt (withX1 4826808 (sim cfgRef))) (fun t => getX t 0 == 2196) = true ∧
    after (exec .isqrt (withX1 0xFFFFFFFE00000000 (sim cfgRef))) (fun t => getX t 0 == 0xFFFFFFFE) = true ∧
    after (exec .isqrt (withX1 0xFFFFFFFFFFFFFFFF (sim cfgRef))) (fun t => getX t 0 == 0xFFFFFFFF) = true := by
  decide +kernel

/-- V-TAB. -/
theorem test_wingen : after (exec .wingen (sim cfgRef)) (fun t =>
    t.buf.win.getD 0 0 == 5243 && t.buf.win.getD 63 0 == 65527 && t.buf.win.getD 127 0 == 5243) = true := by
  decide +kernel

/-- V-WIN-2, last example. -/
theorem test_window : after (exec .window { sim cfgRef with buf := { (sim cfgRef).buf with
    win := winTabDefault, clear := 0xFFFF :: List.replicate 127 500, im := List.replicate 128 7 } }) (fun t =>
    getX t 0 == 1 && t.flk.satf && t.buf.re.take 3 == [335546, 2578, 2631] && t.buf.im.take 2 == [0, 0]) = true := by
  decide +kernel

/-- V-WIN-3. -/
theorem test_window_refused : after (exec .window (sim { cfgRef with flk := { refFlk with sampleCountInit := 64 } }))
    (ended 3 64) = true := by decide +kernel

/-- V-FFT-5: the rounding of the incremental twiddles. -/
theorem test_fft : after (exec (.fft 8) { sim cfgRef with buf := { (sim cfgRef).buf with re := 0 :: 65536 :: List.replicate 126 0 } })
    (fun t => (t.buf.re.take 8).map (·.toInt) == [65536, 46341, 0, -46342, -65536, -46341, 0, 46342] &&
      (t.buf.im.take 8).map (·.toInt) == [0, -46341, -65537, -46342, 0, 46341, 65537, 46342]) = true := by decide +kernel

/-- V-FFT-7. -/
theorem test_fft_sizes : after (exec (.fft 129) (sim cfgRef)) (ended 0 0) = true ∧
    after (exec (.fft 6) (sim cfgRef)) (ended 3 6) = true := by decide +kernel

/-- V-FFT-8: the bins before the overflow are written. -/
theorem test_mag : after (exec (.mag 3) { sim cfgRef with buf := { (sim cfgRef).buf with
    re := [3, -3, -0x100000000], im := [4, -4, 0] } }) (fun t => ended 5 2 t && t.buf.mag.take 3 == [5, 5, 0]) = true := by
  decide +kernel

/-- V-FIFO-1, n = 33. -/
theorem test_drain : after (exec .drain (simWith [.push (List.replicate 33 0x42)])) (fun t =>
    t.buf.ringLen == 33 && t.buf.ring.take 34 == List.replicate 33 0x42 ++ [0] && getX t 0 == 0 &&
    t.bus.log.length == 4) = true := by decide +kernel

/-- V-FIFO-3. -/
theorem test_drain_overflow : after (exec .drain (simWith [.push (List.replicate 100 1), .overflow true])) (fun t =>
    ended 0 0 t && t.buf.ringLen == 0 && !t.flk.dataReady && t.bus.log == [.write 0x83 [2] true,
      .read 0x83 1 (some [0]), .read 0x87 1 (some [0x80]), .read 0x86 1 (some [0x19])]) = true := by decide +kernel

/-- The ring of V-FIFO-5 with `len` bytes valid and the given trailer fields present. -/
def framed (len : U16) (e g c : Bool) : State :=
  { sim cfgRef with
    flk := { (sim cfgRef).flk with metaEnd := e, metaGain := g, metaCsum := c, gain := [7, 7] }
    buf := { (sim cfgRef).buf with
      ringLen := len
      ring := [0x02, 0x01, 0xA2, 0xA1, 0x04, 0x03, 0xB2, 0xB1] ++ List.replicate 504 0 ++
        [0x21, 0x00, 0xCD, 0xAB, 0x5A, 0xA5] ++ List.replicate 506 0 } }

/-- V-FIFO-5. -/
theorem test_deint : after (exec .deint (framed 518 true true true)) (fun t =>
    t.buf.clear.take 3 == [0x0102, 0x0304, 0] && t.buf.wide.take 3 == [0xA1A2, 0xB1B2, 0]) = true ∧
    after (exec .deint (framed 511 true true true)) (ended 3 511) = true := by decide +kernel

/-- V-FIFO-5: all fields, and without the gain word. -/
theorem test_pmeta : after (exec .pmeta (framed 518 true true true)) (fun t =>
    t.flk.gain == [1, 2] && t.flk.checksum == 0xABCD && t.flk.endMarker == 0xA55A) = true ∧
    after (exec .pmeta (framed 516 true false true)) (fun t =>
      t.flk.gain == [7, 7] && t.flk.checksum == 0x21 && t.flk.endMarker == 0xABCD) = true := by decide +kernel

/-- V-FIFO-6. -/
theorem test_fifoclr : after (exec .fifoclr (simWith [.push [1, 2]])) (fun t =>
    t.bus == ⟨.sim simDevReset, [.write 0x83 [2] true, .read 0x83 1 (some [0])]⟩) = true := by decide +kernel

/-- V-FLK-1. -/
theorem test_favg : after (exec .favg { sim cfgRef with buf := { (sim cfgRef).buf with
    clear := 128 :: List.replicate 127 0, wide := List.replicate 128 65535 } }) (fun t =>
    getX t 0 == 1 && getX t 1 == 65535 && t.flk.avgC == 1 && t.flk.avgW == 65535) = true := by decide +kernel

/-- V-FLK-2. -/
theorem test_gnorm : after (exec .gnorm { sim cfgRef with flk := { (sim cfgRef).flk with
    gain := [3, 1], avgC := 500, avgW := 500 } }) (fun t => t.flk.normC == 62 && t.flk.normW == 250) = true ∧
    after (exec .gnorm { sim cfgRef with flk := { (sim cfgRef).flk with gain := [0, 15] } }) (ended 3 15) = true := by
  decide +kernel

/-- `MAG[0]` and `FLK.normC` of V-FLK-3. -/
def thresholdAt (mag0 normC : U64) : State :=
  { sim cfgRef with
    flk := { (sim cfgRef).flk with normC := normC }
    buf := { (sim cfgRef).buf with mag := mag0 :: List.replicate 127 0 } }

/-- V-FLK-3. -/
theorem test_thresh : after (exec .thresh (thresholdAt 2197052 999)) (fun t => t.flk.thresh == 21992) = true ∧
    after (exec .thresh (thresholdAt (-1) 1000)) (fun t => getX t 0 == 184467440737095516) = true := by decide +kernel

/-- V-FLK-3: the two faults. -/
theorem test_thresh_faults : after (exec .thresh (thresholdAt 1844674407370955162 1)) (ended 5 0) = true ∧
    after (exec .thresh (thresholdAt 5 0)) (ended 4 0) = true := by decide +kernel

/-- V-FLK-4: bins 4 and 51 are not looked at; a tie keeps the lowest bin. -/
theorem test_peak : after (exec .peak { sim cfgRef with buf := { (sim cfgRef).buf with
    mag := [0, 0, 0, 0, 999, 7, 7] ++ List.replicate 44 0 ++ [999] ++ List.replicate 76 0 } }) (fun t =>
    getX t 0 == 5 && getX t 1 == 7) = true := by decide +kernel

/-- `FLK.peakBin`, `FLK.peakMag` and `FLK.thresh` of V-FLK-5. -/
def peaked (b : U16) (m t : U64) : State :=
  { sim cfgRef with flk := { (sim cfgRef).flk with peakBin := b, peakMag := m, thresh := t } }

/-- V-FLK-5: equal is not "exceeds". -/
theorem test_fdecide : after (exec .fdecide (peaked 10 100 99)) (fun t => t.flk.freq == 100000) = true ∧
    after (exec .fdecide (peaked 10 100 100)) (fun t => t.flk.freq == 0 && getX t 0 == 0) = true := by decide +kernel

/-- V-FLK-6. -/
theorem test_b2mhz : after (exec .b2mhz (withX1 127 (sim cfgRef))) (fun t => getX t 0 == 1270000) = true := by
  decide +kernel

/-- V-FLK-6. -/
theorem test_mhz2b : after (exec .mhz2b (withX1 99999 (sim cfgRef))) (fun t => getX t 0 == 9) = true ∧
    after (exec .mhz2b (withX1 0x100000000 (sim cfgRef))) (ended 3 0) = true := by decide +kernel

/-- P8: FLKEST with too few bytes. -/
theorem test_flkest : after (exec .flkest (simWith [.push (List.replicate 40 5)])) (fun t =>
    getX t 0 == 0 && t.buf.ringLen == 40 && t.bus.log.length == 4) = true := by decide +kernel

/-- V-AGC-1. -/
theorem test_l2c :
    after (exec .l2c (withX1 15999 (sim cfgRef))) (fun t => getX t 0 == 3) = true ∧
    after (exec .l2c (withX1 16000 (sim cfgRef))) (fun t => getX t 0 == 4) = true ∧
    after (exec .l2c (withX1 0xFFFFFFFFFFFFFFFF (sim cfgRef))) (fun t => getX t 0 == 13) = true := by decide +kernel

/-- V-AGC-2. -/
theorem test_c2l : after (exec .c2l (withX1 13 (sim cfgRef))) (fun t => getX t 0 == 8192000) = true := by
  decide +kernel

/-- V-AGC-3. -/
theorem test_agcen : after (exec (.agcen 1) (sim cfgRef)) (fun t => t.agc.enabled &&
    t.bus.log == [.write 0x8F [1] true, .read 0x8F 1 (some [0]), .write 0x8E [1] true, .read 0x8E 1 (some [0])]) = true := by
  decide +kernel

/-- V-AGC-4: no rollback. -/
theorem test_agcen_fails : after (exec (.agcen 1) (simWith [.outcomes [true, true, false]])) (fun t =>
    ended 1 15 t && !t.agc.enabled && t.bus.dev == .sim { simDevReset with
      reg := [(0x8E, 1), (0x93, 0x5A), (0x94, 0x01)] }) = true := by decide +kernel

/-- V-AGC-3. -/
theorem test_agcsat : after (exec (.agcsat 1) (sim cfgRef)) (fun t =>
    t.agc.satAdaptive && !t.agc.predictive && t.bus.log.take 1 == [.write 0x90 [1] true]) = true := by decide +kernel

/-- V-AGC-3. -/
theorem test_agcpred : after (exec (.agcpred 1) (simWith [.poke 0x90 1])) (fun t =>
    t.agc.predictive && t.bus.log.take 1 == [.write 0x90 [3] true]) = true := by decide +kernel

/-- V-AGC-3. -/
theorem test_agcwin : after (exec (.agcwin 0x40) (sim cfgRef)) (fun t =>
    t.agc.winSize == 0x40 && t.bus.log.take 1 == [.write 0x91 [0x40] true]) = true := by decide +kernel

/-- V-AGC-3. -/
theorem test_agcmaxg : after (exec (.agcmaxg 1 9) (simWith [.poke 0x92 0x0D])) (fun t =>
    t.agc.maxGainW == 9 && t.agc.maxGainC == 0 && t.bus.log.take 1 == [.write 0x92 [0x9D] true]) = true := by decide +kernel

/-- V-ALS-3: scale 0 doubles. -/
theorem test_alssmp : after (exec .alssmp (simWith [.poke 0x8A 0xE8, .poke 0x8B 0x03, .poke 0x8C 0xD0, .poke 0x8D 0x07,
    .poke 0x89 0x20])) (fun t => t.als.rawClear == 2000 && t.als.rawWide == 1000 && t.als.lux == 2265) = true := by
  decide +kernel

/-- R115: `BUS_XFER_MAX` 3 refuses the 4-byte block (log 26). -/
theorem test_alssmp_refused :
    after (exec .alssmp (sim { cfgRef with bus := { cfgRef.bus with xferMax := 3 } })) (fun t =>
      ended 3 4 t && t.bus.log == []) = true := by decide +kernel

/-- V-ALS-1: (1000, 1251), and wideband 0. -/
theorem test_alscalc : after (exec .alscalc (setX 2 1251 (withX1 1000 (sim cfgRef)))) (fun t =>
      t.als.ir == 1 && t.als.cwRatio == 0 && t.als.lux == 1157 && t.als.clearCorr == 999 && t.als.wideCorr == 1250 &&
      t.als.luxAvg == 578 && t.dc.update == 1) = true ∧
    after (exec .alscalc (withX1 500 (sim cfgRef))) (fun t => t.als.cwRatio == 15 && t.als.lux == 439) = true := by
  decide +kernel

/-- V-FLK-8: the un-normalised averages. -/
theorem test_alseq : after (exec .alseq { sim cfgRef with flk := { (sim cfgRef).flk with
    gain := [1, 3], avgC := 1000, avgW := 800 } }) (fun t =>
    t.als.gainC == 1 && t.als.gainW == 3 && getX t 0 == 1152 && t.als.ir == 0) = true := by decide +kernel

/-- V-DSP-6. -/
theorem test_dispatch : after (exec .dispatch (simWith [.poke 0x82 4])) (fun t => getX t 0 == 0 &&
    t.bus.log == [.read 0x82 1 (some [0]), .write 0x82 [4] true, .read 0x82 1 (some [4])]) = true := by decide +kernel

/-- P7 (a). -/
theorem test_dispatch_stuck :
    after (exec .dispatch (orc (List.replicate 4 [.ok [0x10], .ok [], .ok [0x10]]).flatten)) (fun t =>
      ended 6 0x10 t && t.dc.phase == .idle && t.bus.log.length == 12) = true := by decide +kernel

/-- V-DSP-7. -/
theorem test_featen : after (exec (.featen 0 0) (sim cfgRef)) (fun t => t.dc.mode == 1 && t.als.state == .rgb &&
    t.dc.shEnable == 3 && t.dc.shIntenab == 8) = true := by decide +kernel

/-- V-DSP-7. -/
theorem test_featdis : after (exec (.featdis 1) { simWith [.poke 0x80 0x43, .poke 0x81 0x0C] with
    dc := { (sim cfgRef).dc with mode := 3 } }) (fun t => t.dc.mode == 1 && t.dc.shEnable == 3 && t.dc.shIntenab == 8)
    = true := by decide +kernel

/-- V-DSP-8. -/
theorem test_setthr : after (exec (.setthr 512) (sim cfgRef)) (fun t => t.flk.fifoThreshold == 512 &&
    t.bus.log == [.write 0x85 [2] true, .read 0x85 1 (some [0]), .read 0x84 1 (some [0])]) = true ∧
    after (exec (.setthr 1025) (sim cfgRef)) (ended 3 1025) = true := by decide +kernel

/-- V-FLK-8: the layout of the results. -/
theorem test_getals : after (exec .getals { sim cfgRef with als := { (sim cfgRef).als with
    clearCorr := 1000, wideCorr := 800, gainC := 1, gainW := 3, rawClear := 1000, rawWide := 800, lux := 1152 } })
    (fun t => t.x.toList == [1000, 0, 800, 0x0301, 0x00000320000003E8, 100, 1152, 0]) = true := by decide +kernel

/-- V-FLK-8. -/
theorem test_getflk : after (exec .getflk { sim cfgRef with flk := { (sim cfgRef).flk with freq := 120000 } }) (fun t =>
    getX t 0 == 0x1D4C0) = true := by decide +kernel

/-! ### Witnesses: for each statement with hypotheses, a state and operands that meet them, each clause at a
boundary -/

theorem test_config_ok : configOk cfgRef = true := by decide +kernel

theorem test_legal : (sim cfgRef).Legal where
  cfg := test_config_ok
  dc := ⟨rfl, by decide +kernel, by decide +kernel, fun _ h => nomatch h⟩
  agc := ⟨by decide +kernel, by decide +kernel, by decide +kernel⟩
  flk := ⟨rfl, rfl, rfl, rfl, by decide +kernel, by decide +kernel, by decide +kernel, by decide +kernel, .inl rfl⟩
  als := ⟨rfl, rfl, rfl, by decide +kernel, by decide +kernel, by decide +kernel⟩
  buf := ⟨by decide +kernel, by decide +kernel, by decide +kernel, by decide +kernel, by decide +kernel,
    by decide +kernel, by decide +kernel, by decide +kernel⟩
  ring := ⟨by decide +kernel, by decide +kernel⟩
  dev := by show memWf _ = true; decide +kernel

/-- A legal state stays legal with another sample count: the boundary cases below use it. -/
def counted (n : U16) : Config := { cfgRef with flk := { refFlk with sampleCountInit := n } }

/-! Transactions of a device that answers as told. -/

theorem reads_one (c : Config) (v : Byte) (rest : List BusAnswer) (d : Nat) (log : List BusTx) (reg : Byte) :
    ∃ d' log', readOk c ⟨.oracle (.ok [v] :: rest) d, log⟩ reg 1 [v] ⟨.oracle rest d', log'⟩ := ⟨_, _, rfl⟩

theorem read_fails (c : Config) (n : Nat) (rest : List BusAnswer) (d : Nat) (log : List BusTx) (reg : Byte) :
    ∃ d' log', readFails c ⟨.oracle (.fail :: rest) d, log⟩ reg n ⟨.oracle rest d', log'⟩ := ⟨_, _, rfl⟩

theorem writes (c : Config) (bytes : List Byte) (rest : List BusAnswer) (d : Nat) (log : List BusTx) (reg : Byte) :
    ∃ d' log', writeOk c ⟨.oracle (.ok [] :: rest) d, log⟩ reg bytes ⟨.oracle rest d', log'⟩ := ⟨_, _, rfl⟩

theorem write_fails (c : Config) (bytes : List Byte) (rest : List BusAnswer) (d : Nat) (log : List BusTx) (reg : Byte) :
    ∃ d' log', writeFails c ⟨.oracle (.fail :: rest) d, log⟩ reg bytes ⟨.oracle rest d', log'⟩ := ⟨_, _, rfl⟩

theorem field_written (c : Config) (w : FieldWrite) (v : Byte) (rest : List BusAnswer) (d : Nat) (log : List BusTx)
    (dc : DeviceContext) (h : merged v w ≠ v) :
    ∃ d' log' dc', fieldDone c w ⟨.oracle (.ok [v] :: .ok [] :: rest) d, log⟩ dc ⟨.oracle rest d', log'⟩ dc' true :=
  ⟨_, _, _, v, _, rfl, .inr ⟨h, rfl, rfl, rfl⟩⟩

theorem field_kept (c : Config) (w : FieldWrite) (v : Byte) (rest : List BusAnswer) (d : Nat) (log : List BusTx)
    (dc : DeviceContext) (h : merged v w = v) :
    ∃ d' log' dc', fieldDone c w ⟨.oracle (.ok [v] :: rest) d, log⟩ dc ⟨.oracle rest d', log'⟩ dc' false :=
  ⟨_, _, _, v, _, rfl, .inl ⟨h, rfl, rfl, rfl⟩⟩

theorem field_fails (c : Config) (w : FieldWrite) (rest : List BusAnswer) (d : Nat) (log : List BusTx)
    (dc : DeviceContext) :
    ∃ b' dc', fieldFails c w ⟨.oracle (.fail :: rest) d, log⟩ dc b' dc' := ⟨_, _, .inl ⟨rfl, rfl⟩⟩

theorem field_write_fails (c : Config) (w : FieldWrite) (v : Byte) (rest : List BusAnswer) (d : Nat) (log : List BusTx)
    (dc : DeviceContext) (h : merged v w ≠ v) :
    ∃ b' dc', fieldFails c w ⟨.oracle (.ok [v] :: .fail :: rest) d, log⟩ dc b' dc' :=
  ⟨_, _, .inr ⟨v, _, rfl, h, rfl, rfl⟩⟩

theorem burst_kept (c : Config) (v : Byte) (ws : List FieldWrite) (d : Nat) (log : List BusTx) (dc : DeviceContext)
    (h : ∀ w ∈ ws, merged v w = v) :
    ∃ b' dc', burstDone c ws ⟨.oracle (List.replicate ws.length (.ok [v])) d, log⟩ dc b' dc' := by
  induction ws generalizing d log dc with
  | nil => exact ⟨_, _, rfl, rfl⟩
  | cons w ws ih =>
    obtain ⟨d', log', dc', hw⟩ := field_kept c w v (List.replicate ws.length (.ok [v])) d log dc (h w (by simp))
    obtain ⟨b2, dc2, hr⟩ := ih d' log' dc' fun x hx => h x (by simp [hx])
    exact ⟨b2, dc2, _, _, _, hw, hr⟩

theorem burst_fails (c : Config) (v : Byte) (w1 w2 : FieldWrite) (d : Nat) (log : List BusTx) (dc : DeviceContext)
    (h : merged v w1 = v) :
    ∃ b' dc', burstFails c [w1, w2] ⟨.oracle [.ok [v], .fail] d, log⟩ dc w2.reg b' dc' := by
  obtain ⟨d', log', dc', hw⟩ := field_kept c w1 v [.fail] d log dc h
  obtain ⟨b2, dc2, hf⟩ := field_fails c w2 [] d' log' dc'
  exact ⟨b2, dc2, [w1], w2, [], _, _, rfl, rfl, ⟨_, _, _, hw, rfl, rfl⟩, hf⟩

/-! Encoding, commands, endings. -/

theorem test_witness_EncodeOfDecode : decode 0xFFFFFFFF ≠ .ok .nop ∧ decode 0x75000000 = .ok .getflk ∧
    decode 0x17FFFFFF = .ok (.setf 0xFF 0xFF 0xFF) := by decide

theorem test_witness_StepRunsDecodedInstruction :
    ({ sim cfgRef with inbox := [.command 0x75000000 [0x00000000]] } : State).inbox =
      .command 0x75000000 [0x00000000] :: [] ∧
    (sim cfgRef).attached = true ∧ configOk (sim cfgRef).cfg = true ∧ decode 0x75000000 = .ok .getflk :=
  ⟨rfl, rfl, test_config_ok, by decide⟩

theorem no_row {w : U32} (h : (opcodeRows.all fun row => w &&& row.2 != row.1) = true) :
    ∀ row ∈ opcodeRows, w &&& row.2 ≠ row.1 := fun row hr => by simpa using List.all_eq_true.mp h row hr

theorem test_witness_IllegalCommandIsRefused :
    ({ sim cfgRef with inbox := [.command 0x76000000 []] } : State).inbox = .command 0x76000000 [] :: [] ∧
    (sim cfgRef).attached = true ∧ configOk (sim cfgRef).cfg = true ∧
    (∀ row ∈ opcodeRows, (0x76000000 : U32) &&& row.2 ≠ row.1) ∧
    (∀ row ∈ opcodeRows, (0x00000001 : U32) &&& row.2 ≠ row.1) :=
  ⟨rfl, rfl, test_config_ok, no_row (by decide +kernel), no_row (by decide +kernel)⟩

/-- A block still attached (log 28) and one that is not. -/
theorem test_witness_AttachResetsTheBlock :
    let live : State := { orc [] with inbox := [.attach cfgRef] }
    let gone : State := { live with attached := false }
    live.inbox = .attach cfgRef :: [] ∧ live.attached = true ∧ gone.inbox = .attach cfgRef :: [] ∧
      gone.attached = false ∧ configOk cfgRef = true :=
  ⟨rfl, rfl, rfl, rfl, test_config_ok⟩

/-- An ill-formed configuration: twiddle tables of another length (00_scope.md R7). -/
def badConfig : Config := { cfgRef with cosTab := [] }

theorem test_witness_AbsentOrIllFormedBlockRefuses :
    configOk badConfig = false ∧
    (({ sim cfgRef with inbox := [.attach badConfig] } : State).inbox = .attach badConfig :: []) ∧
    (({ sim badConfig with inbox := [.command 0 []] } : State).inbox = .command 0 [] :: [] ∧
      (sim badConfig).attached = true ∧ configOk (sim badConfig).cfg = false) ∧
    (({ sim cfgRef with attached := false, inbox := [.command 0 []] } : State).inbox = .command 0 [] :: []) ∧
    (({ sim cfgRef with inbox := [.detach] } : State).inbox = .detach :: [] ∧ (sim cfgRef).attached = true) := by
  have h : configOk badConfig = false := by decide +kernel
  exact ⟨h, rfl, ⟨rfl, rfl, h⟩, rfl, rfl, rfl⟩

theorem test_witness_HostWritesOperandRegister :
    ({ sim cfgRef with inbox := [.writeX 7 (-1)] } : State).inbox = .writeX 7 (-1) :: [] ∧
    (sim cfgRef).attached = true ∧ configOk (sim cfgRef).cfg = true := ⟨rfl, rfl, test_config_ok⟩

theorem test_witness_EveryEndingIsRecorded :
    (∃ t, exec .getflk (sim cfgRef) = .next t) ∧ ∃ t, exec .ident (orc [.fail]) = .next t := ⟨⟨_, rfl⟩, _, rfl⟩

theorem test_witness_FaultWritesNoOperandRegister :
    ∃ t, exec (.getb 24) (sim cfgRef) = .next t ∧ t.dc.lastErr ≠ 0 := ⟨_, rfl, by decide +kernel⟩

theorem test_witness_ErrorCounterCountsFailures :
    (∃ t, exec (.getb 23) (orc [.fail]) = .next t) ∧ ∃ t, exec .nop (orc []) = .next t := ⟨⟨_, rfl⟩, _, rfl⟩

theorem test_witness_IllegalOperandsChangeNothing :
    (Instr.xli 8 0).wf = false ∧ (Instr.setf 0 3 2).wf = false ∧ (Instr.agcmaxg 0 14).wf = false := by decide

theorem test_witness_NoBusTransaction :
    (∃ t, exec (.xli 8 1) (sim cfgRef) = .next t) ∧ (∃ t, exec (.xmov 7 0) (sim cfgRef) = .next t) ∧
    (∃ t, exec (.mag 0) (sim cfgRef) = .next t) ∧ ∃ t, exec .getals (sim cfgRef) = .next t :=
  ⟨⟨_, rfl⟩, ⟨_, rfl⟩, ⟨_, rfl⟩, _, rfl⟩

/-- Whether a procedure answered `a`. -/
def answered {α : Type} [BEq α] (a : α) (r : EStateM.Result Raised State α) : Bool :=
  match r with
  | .ok b _ => b == a
  | .error _ _ => false

theorem eq_of_answered {α : Type} [BEq α] [LawfulBEq α] {a : α} {r : EStateM.Result Raised State α}
    (h : answered a r = true) : r = .ok a (left r) := by
  revert h
  cases r with
  | ok b t => exact fun h => by rw [eq_of_beq h]; rfl
  | error e t => exact fun h => nomatch h

/-- Whether a procedure raised this fault. -/
def raised {α : Type} (status : Byte) (info : U16) (r : EStateM.Result Raised State α) : Bool :=
  match r with
  | .ok _ _ => false
  | .error e _ => statusOf e.code == status && e.info == info

theorem raises_of_raised {α : Type} {p : Proc α} {s : State} {status : Byte} {info : U16}
    (h : raised status info (p s) = true) : ∃ t, Raises p s status info t := by
  revert h
  unfold Raises
  cases p s with
  | ok a t => exact fun h => nomatch h
  | error e t =>
    intro h
    obtain ⟨h1, h2⟩ := (Bool.and_eq_true _ _).mp h
    exact ⟨t, e, rfl, eq_of_beq h1, eq_of_beq h2⟩

theorem next_of_after {o : Outcome} {p : State → Bool} (h : after o p = true) : ∃ t, o = .next t ∧ p t = true := by
  cases o with
  | next t => exact ⟨t, rfl, h⟩
  | fault f => exact nomatch h
  | refused r => exact nomatch h

/-- A state whose DISPATCH has begun, with this cap and mode, on a device that answers so. -/
def dispatching (cap : DispatchCap) (mode : BitVec 2) (script : List BusAnswer) : State :=
  let s := State.attach { cfgRef with dispatchCap := cap } ⟨.oracle script 0, []⟩ []
  { s with dc := { s.dc with phase := .dispatch, mode := mode } }

/-- A finite cap; an infinite one with a status that never reads 0, looked at once. -/
theorem test_witness_OperationsEnd :
    capFinite (sim cfgRef) ∧ ∃ t, unfinishedPasses 1
      (dispatching (.unbounded 0) 0 [.ok [0x10], .ok [], .ok [0x10]]) t :=
  ⟨⟨4, rfl⟩, _, 0x10, _, (passReturns_iff _).mpr (eq_of_answered (by decide +kernel)), by decide, rfl⟩

theorem test_witness_StepKeepsLegality : (sim cfgRef).Legal ∧ ∃ t, step (sim cfgRef) = .next t :=
  ⟨test_legal, _, rfl⟩

/-! Host utilities. -/

theorem test_witness_LoadImmediate64 : (7 : Byte).toNat < 8 ∧ (0 : Byte).toNat < 8 := by decide

/-- The selectors of the rows, and the first beyond them. -/
theorem test_witness_BufferReadReturnsElement :
    (0 : Byte).toNat = 0 ∧ (6 : Byte).toNat = 6 ∧ (11 : Byte).toNat = 11 ∧ 11 < (12 : Byte).toNat := by decide

/-- Each BRD row at the last index and at the one beyond it. -/
theorem test_brd_lengths :
    ([(0, 128), (1, 128), (2, 128), (3, 128), (4, 128), (5, 128), (6, 1024), (7, 32), (8, 512), (9, 512), (10, 14),
      (11, 128)] : List (Byte × U16)).all (fun p =>
        after (exec (.brd p.1 (p.2 - 1)) (sim cfgRef)) (ended 0 0) &&
        after (exec (.brd p.1 p.2) (sim cfgRef)) (ended 3 p.2)) = true := by decide +kernel

theorem test_witness_BufferWriteStoresElement :
    (0 : Byte).toNat = 0 ∧ (7 : Byte).toNat = 7 ∧ ¬ (5 : Byte).toNat ∈ [0, 1, 2, 3, 4, 7] ∧
    ¬ (8 : Byte).toNat ∈ [0, 1, 2, 3, 4, 7] := by decide

/-! Register access: register 23 is the last id of the reference configuration. -/

theorem test_witness_ByteAccess :
    regMax cfgRef ≤ (24 : Byte).toNat ∧ (23 : Byte).toNat < regMax cfgRef ∧
    (∃ b, readOk cfgRef (orc [.ok [0xFF]]).bus 23 1 [0xFF] b) ∧ (∃ b, readFails cfgRef (orc [.fail]).bus 23 1 b) ∧
    (∃ b, writeOk cfgRef (orc [.ok []]).bus 23 [0xFF] b) ∧ ∃ b, writeFails cfgRef (orc [.fail]).bus 23 [0xFF] b :=
  ⟨by decide, by decide, ⟨_, rfl⟩, ⟨_, rfl⟩, ⟨_, rfl⟩, _, rfl⟩

/-- The last word id, the last id (no word), and a pair of ids at addresses that are not consecutive. -/
theorem test_witness_WordAccessIsLittleEndian :
    wordIds cfgRef 22 ∧ ¬ wordIds cfgRef 23 ∧
    ¬ wordIds { cfgRef with regMap := [⟨0x80, 0⟩, ⟨0x90, 0⟩] } 0 ∧
    (∃ b, readOk cfgRef (orc [.ok [0x34, 0x12]]).bus 22 2 [0x34, 0x12] b) ∧
    (∃ b, readFails cfgRef (orc [.fail]).bus 22 2 b) ∧
    (∃ b, writeOk cfgRef (orc [.ok []]).bus 22 [0x34, 0x12] b) ∧ ∃ b, writeFails cfgRef (orc [.fail]).bus 22 [0x34, 0x12] b :=
  ⟨⟨by decide, by decide⟩, fun h => absurd h.1 (by decide), fun h => absurd h.2 (by decide), ⟨_, rfl⟩, ⟨_, rfl⟩,
    ⟨_, rfl⟩, _, rfl⟩

theorem test_witness_BufferTransfers :
    (sim cfgRef).buf.xfer.length = cfgRef.bus.xferMax ∧ regMax cfgRef ≤ (24 : Byte).toNat ∧
    (23 : Byte).toNat < regMax cfgRef ∧ cfgRef.bus.xferMax < (33 : Byte).toNat ∧
    ((32 : Byte) ≠ 0 ∧ (32 : Byte).toNat ≤ cfgRef.bus.xferMax) ∧
    (∃ b, readOk cfgRef (orc [.ok (List.replicate 32 7)]).bus 23 32 (List.replicate 32 7) b) ∧
    (∃ b, readFails cfgRef (orc [.fail]).bus 23 32 b) ∧
    (∃ b, writeOk cfgRef (orc [.ok []]).bus 23 ((orc []).buf.xfer.take 32) b) ∧
    ∃ b, writeFails cfgRef (orc [.fail]).bus 23 ((orc []).buf.xfer.take 32) b :=
  ⟨by decide +kernel, by decide, by decide, by decide, by decide, ⟨_, rfl⟩, ⟨_, rfl⟩, ⟨_, rfl⟩, _, rfl⟩

theorem test_witness_GetFieldMasks :
    regMax cfgRef ≤ (24 : Byte).toNat ∧ (23 : Byte).toNat < regMax cfgRef ∧
    (∃ b, readOk cfgRef (orc [.ok [0xFF]]).bus 23 1 [0xFF] b) ∧ ∃ b, readFails cfgRef (orc [.fail]).bus 23 1 b :=
  ⟨by decide, by decide, ⟨_, rfl⟩, _, rfl⟩

theorem test_witness_SetFieldWritesOnlyChanges :
    regMax cfgRef ≤ (24 : Byte).toNat ∧ (3 : Byte) &&& ~~~2 ≠ 0 ∧
    (23 : Byte).toNat < regMax cfgRef ∧ (2 : Byte) &&& ~~~2 = 0 ∧
    (∃ b dc, fieldDone cfgRef ⟨23, 2, 2⟩ (orc [.ok [0xFD], .ok []]).bus (orc []).dc b dc true) ∧
    (∃ b dc, fieldDone cfgRef ⟨23, 2, 2⟩ (orc [.ok [0xFF]]).bus (orc []).dc b dc false) ∧
    (∃ b dc, fieldFails cfgRef ⟨23, 2, 2⟩ (orc [.fail]).bus (orc []).dc b dc) ∧
    ∃ b dc, fieldFails cfgRef ⟨23, 2, 2⟩ (orc [.ok [0xFD], .fail]).bus (orc []).dc b dc := by
  refine ⟨by decide, by decide, by decide, by decide, ?_, ?_, ?_, ?_⟩
  · obtain ⟨_, _, _, h⟩ := field_written cfgRef ⟨23, 2, 2⟩ 0xFD [] 0 [] (orc []).dc (by decide)
    exact ⟨_, _, h⟩
  · obtain ⟨_, _, _, h⟩ := field_kept cfgRef ⟨23, 2, 2⟩ 0xFF [] 0 [] (orc []).dc (by decide)
    exact ⟨_, _, h⟩
  · exact field_fails _ _ _ _ _ _
  · exact field_write_fails _ _ _ _ _ _ _ (by decide)

theorem test_witness_SetFieldTwiceWritesOnce :
    simAnswers (sim cfgRef).bus simDevReset ∧ memWf simDevReset.reg = true ∧ (16 : Byte).toNat < regMax cfgRef ∧
    ((2 : Byte) &&& ~~~2 = 0 ∧ merged 0 ⟨16, 2, 2⟩ ≠ 0) ∧ ((0 : Byte) &&& ~~~2 = 0 ∧ merged 0 ⟨16, 0, 2⟩ = 0) ∧
    (∀ r ∈ [cfgRef.reg.fifoData, cfgRef.reg.fifoLvl, cfgRef.reg.fifoStat, cfgRef.reg.status, cfgRef.reg.control],
      regAddr cfgRef (16 : Byte).toNat ≠ regAddr cfgRef r.toNat) :=
  ⟨⟨rfl, rfl⟩, by decide, by decide, by decide, by decide, by decide +kernel⟩

/-- Both entries of the reference list (the second at revision 0), and an id of none. -/
theorem test_witness_IdentMatchesFirstEntry :
    (∃ b, readFails cfgRef (orc [.fail]).bus cfgRef.reg.id 1 b) ∧
    (∃ b1, readOk cfgRef (orc [.ok [0x5A], .fail]).bus cfgRef.reg.id 1 [0x5A] b1 ∧
      ∃ b, readFails cfgRef b1 cfgRef.reg.revid 1 b) ∧
    (∃ b1, readOk cfgRef (orc [.ok [0x5A], .ok [0]]).bus cfgRef.reg.id 1 [0x5A] b1 ∧
      ∃ b2, readOk cfgRef b1 cfgRef.reg.revid 1 [0] b2) ∧
    (∃ e0 e1, cfgRef.bus.deviceIds = [e0] ++ e1 :: [] ∧
      ¬ ((0x5A : Byte) &&& e0.idMask = e0.id ∧ (0 : Byte) &&& e0.revMask = e0.rev) ∧
      (0x5A : Byte) &&& e1.idMask = e1.id ∧ (0 : Byte) &&& e1.revMask = e1.rev) ∧
    (∀ e ∈ cfgRef.bus.deviceIds, ¬ ((0x10 : Byte) &&& e.idMask = e.id ∧ (0 : Byte) &&& e.revMask = e.rev)) :=
  ⟨⟨_, rfl⟩, ⟨_, rfl, _, rfl⟩, ⟨_, rfl, _, rfl⟩, ⟨_, _, rfl, by decide, by decide, by decide⟩, by decide⟩

/-! DSP kernels. -/

theorem legal_counted (n : U16) : (sim (counted n)).Legal where
  cfg := show configOk cfgRef = true from test_config_ok
  dc := ⟨test_legal.dc.phase, test_legal.dc.lastErr, test_legal.dc.faults, fun _ h => nomatch h⟩
  agc := ⟨test_legal.agc.winSize, test_legal.agc.maxGainC, test_legal.agc.maxGainW⟩
  flk := ⟨rfl, rfl, rfl, rfl, test_legal.flk.threshold, test_legal.flk.gain, test_legal.flk.avgC, test_legal.flk.avgW, .inl rfl⟩
  als := ⟨rfl, rfl, rfl, test_legal.als.cwRatio, test_legal.als.clearCorr, test_legal.als.wideCorr⟩
  buf := ⟨test_legal.buf.ring, test_legal.buf.clear, test_legal.buf.wide, test_legal.buf.re, test_legal.buf.im,
    test_legal.buf.mag, test_legal.buf.win, test_legal.buf.xfer⟩
  ring := ⟨test_legal.ring.len, fun h => nomatch h⟩
  dev := test_legal.dev

/-- A legal state stays legal with other spectra of the same length. -/
theorem legal_spectra (re im : List U64) (hr : re.length = 128) (hi : im.length = 128) :
    ({ sim cfgRef with buf := { (sim cfgRef).buf with re := re, im := im } } : State).Legal :=
  { test_legal with
    buf := { test_legal.buf with re := hr, im := hi }
    ring := ⟨test_legal.ring.len, test_legal.ring.ready⟩ }

/-- A legal state stays legal with any number of ring bytes up to the threshold. -/
theorem legal_ring (len : U16) (h : len.toNat ≤ 512) :
    ({ sim cfgRef with buf := { (sim cfgRef).buf with ringLen := len } } : State).Legal :=
  { test_legal with
    buf := { test_legal.buf with }
    ring := ⟨h, fun h => nomatch h⟩ }

theorem test_witness_WindowKernels :
    (sim (counted 127)).Legal ∧ (sim (counted 127)).flk.sampleCount.toNat ≠ 128 ∧
    (sim cfgRef).Legal ∧ (sim cfgRef).flk.sampleCount.toNat = 128 :=
  ⟨legal_counted 127, by decide, test_legal, by decide⟩

theorem not_power {n : Nat} (h : ∀ m < 7, n ≠ 2 ^ m) (hn : n < 128) (m : Nat) : n ≠ 2 ^ m := by
  by_cases hm : m < 7
  · exact h m hm
  · have : 2 ^ 7 ≤ 2 ^ m := Nat.pow_le_pow_right (by decide) (by omega)
    omega

/-- Spectra of which the first four elements are at the bounds `b` and `-b`. -/
theorem bounded_spectra (b : Int) (h1 : (BitVec.ofInt 64 b).toInt = b) (h2 : (BitVec.ofInt 64 (-b)).toInt = -b) (h : 0 ≤ b) :
    ∃ s : State, s.Legal ∧ s.cfg = cfgRef ∧ ∀ i < 4, -b ≤ (s.buf.re.getD i 0).toInt ∧ (s.buf.re.getD i 0).toInt ≤ b ∧
      -b ≤ (s.buf.im.getD i 0).toInt ∧ (s.buf.im.getD i 0).toInt ≤ b := by
  refine ⟨_, legal_spectra ([BitVec.ofInt 64 b, BitVec.ofInt 64 (-b), BitVec.ofInt 64 b, BitVec.ofInt 64 (-b)] ++
      List.replicate 124 0) ([BitVec.ofInt 64 b, BitVec.ofInt 64 b, BitVec.ofInt 64 b, BitVec.ofInt 64 (-b)] ++
      List.replicate 124 0) (by simp) (by simp), rfl, fun i hi => ?_⟩
  obtain rfl | rfl | rfl | rfl : i = 0 ∨ i = 1 ∨ i = 2 ∨ i = 3 := by omega
  all_goals simp [h1, h2]; omega

/-- The sizes: above `FFT_MAX`, no powers of two (0 and 127), one; two and four elements at their bounds; an array as
long as the permutation. -/
theorem test_witness_SmallTransforms :
    cfgRef.flk.fftMax < (129 : U16).toNat ∧
    ((127 : U16).toNat ≤ cfgRef.flk.fftMax ∧ ∀ m, (127 : U16).toNat ≠ 2 ^ m) ∧ (∀ m, (0 : U16).toNat ≠ 2 ^ m) ∧
    ((1 : U16).toNat = 1 ∧ 1 ≤ cfgRef.flk.fftMax) ∧
    (2 ^ 7 ≤ (sim cfgRef).buf.re.length ∧ 2 ^ 0 ≤ (sim cfgRef).buf.re.length) ∧
    (∃ s : State, s.Legal ∧ (s.cfg.cosTab = cosTabDefault ∧ s.cfg.sinTab = sinTabDefault) ∧ ∀ i < 4,
      -(2 ^ 44) ≤ (s.buf.re.getD i 0).toInt ∧ (s.buf.re.getD i 0).toInt ≤ 2 ^ 44 ∧
      -(2 ^ 44) ≤ (s.buf.im.getD i 0).toInt ∧ (s.buf.im.getD i 0).toInt ≤ 2 ^ 44) ∧
    ∃ s : State, s.Legal ∧ ∀ l ∈ [s.buf.re, s.buf.im], ∀ i < 2,
      -(2 ^ 46) ≤ (l.getD i 0).toInt ∧ (l.getD i 0).toInt ≤ 2 ^ 46 := by
  obtain ⟨s, hs, hc, hb⟩ := bounded_spectra (2 ^ 44) (by decide) (by decide) (by decide)
  refine ⟨by decide, ⟨by decide, not_power (by decide) (by decide)⟩, not_power (by decide) (by decide), by decide,
    by decide +kernel, ⟨s, hs, by rw [hc]; exact ⟨rfl, rfl⟩, hb⟩, _, legal_spectra (BitVec.ofInt 64 (2 ^ 46) :: BitVec.ofInt 64 (-(2 ^ 46)) :: List.replicate 126 0)
      (List.replicate 128 0) (by simp) (by simp), ?_⟩
  intro l hl i hi
  simp only [List.mem_cons, List.not_mem_nil, or_false] at hl
  obtain rfl | rfl := hl <;> obtain rfl | rfl : i = 0 ∨ i = 1 := by omega
  all_goals decide

/-- An FFT that completes (of one, of four elements) and one that overflows. -/
theorem test_witness_TransformTouchesItsElements :
    (∃ t, exec (.fft 2) { sim cfgRef with buf := { (sim cfgRef).buf with
      re := List.replicate 128 (BitVec.ofInt 64 (2 ^ 62)) } } = .next t) ∧
    (sim cfgRef).Legal ∧
    ((1 : U16).toNat = 2 ^ 0 ∧ 1 ≤ cfgRef.flk.fftMax ∧
      ∃ t, exec (.fft 1) (sim cfgRef) = .next t ∧ (t.dc.lastErr == 0) = true) ∧
    ((4 : U16).toNat = 2 ^ 2 ∧ 4 ≤ cfgRef.flk.fftMax ∧
      ∃ t, exec (.fft 4) (sim cfgRef) = .next t ∧ (t.dc.lastErr == 0) = true) :=
  ⟨⟨_, rfl⟩, test_legal, ⟨by decide, by decide, next_of_after (by decide +kernel)⟩, by decide, by decide,
    next_of_after (by decide +kernel)⟩

/-- The largest and the smallest size, every element at one of the bounds. -/
theorem test_witness_TransformDoesNotOverflow :
    (128 : U16).toNat = 2 ^ 7 ∧ (1 : U16).toNat = 2 ^ 0 ∧ (128 : U16).toNat ≤ cfgRef.flk.fftMax ∧
    cfgRef.cosTab = cosTabDefault ∧ cfgRef.sinTab = sinTabDefault ∧
    ∃ s : State, s.Legal ∧ s.cfg = cfgRef ∧ ∀ l ∈ [s.buf.re, s.buf.im], ∀ i < 128,
      -(2 ^ 32) ≤ (l.getD i 0).toInt ∧ (l.getD i 0).toInt ≤ 2 ^ 32 := by
  refine ⟨by decide, by decide, by decide, rfl, rfl, _, legal_spectra (List.replicate 128 (BitVec.ofInt 64 (2 ^ 32)))
    (List.replicate 128 (BitVec.ofInt 64 (-(2 ^ 32)))) (by simp) (by simp), rfl, ?_⟩
  intro l hl i hi
  simp only [List.mem_cons, List.not_mem_nil, or_false] at hl
  obtain rfl | rfl := hl <;> rw [List.getD_replicate _ hi] <;> decide

/-- Every bin below the bound, and the last bin exactly at it. -/
theorem test_witness_MagnitudeOfEachBin :
    cfgRef.flk.fftMax < (129 : U16).toNat ∧ ((128 : U16) ≠ 0 ∧ (128 : U16).toNat ≤ cfgRef.flk.fftMax) ∧
    (127 : U16).toNat < (128 : U16).toNat ∧
    (let r (l : List U64) (i : Nat) : Int := (l.getD i 0).toInt / 2 ^ cfgRef.flk.magPreshift
     let re : List U64 := List.replicate 127 0xFFFFFFFF ++ [0x100000000]
     let im : List U64 := List.replicate 128 0
     let p (i : Nat) : Int := r re i * r re i + r im i * r im i
     ({ sim cfgRef with buf := { (sim cfgRef).buf with re := re, im := im } } : State).Legal ∧
     2 ^ 64 ≤ p 127 ∧ ∀ i < 127, p i < 2 ^ 64) ∧
    ∀ i < 128, (((sim cfgRef).buf.re.getD i 0).toInt / 2 ^ cfgRef.flk.magPreshift) ^ 2 < (2 : Int) ^ 64 := by
  refine ⟨by decide, by decide, by decide, ⟨legal_spectra _ _ (by simp) (by simp), by decide +kernel, by decide +kernel⟩,
    by decide +kernel⟩

/-! FIFO drain and frame parser. -/

/-- A FIFO that fills the ring to the threshold exactly. -/
theorem test_witness_DrainMovesTheFifo :
    ∃ (s : State) (d : SimDev), s.Legal ∧ simAnswers s.bus d ∧ d.ovf = false ∧ s.cfg = cfgRef ∧
      d.fifo.length < 2 ^ (8 + cfgRef.bus.nLow) ∧ s.buf.ringLen.toNat + d.fifo.length = s.flk.fifoThreshold.toNat ∧
      regAddr cfgRef cfgRef.reg.fifoLvl.toNat ≠ regAddr cfgRef cfgRef.reg.fifoData.toNat ∧
      regAddr cfgRef cfgRef.reg.fifoStat.toNat ≠ regAddr cfgRef cfgRef.reg.fifoData.toNat ∧
      regAddr cfgRef cfgRef.reg.fifoStat.toNat ≠ regAddr cfgRef cfgRef.reg.fifoLvl.toNat :=
  ⟨simWith [.push (List.replicate 512 1)], { simDevReset with fifo := List.replicate 512 1 },
    { test_legal with dev := test_legal.dev, ring := ⟨test_legal.ring.len, test_legal.ring.ready⟩ },
    ⟨rfl, rfl⟩, rfl, rfl, by decide +kernel, by decide +kernel, by decide, by decide, by decide⟩

theorem fieldDone_of_bus {b : Bus} {script : List BusAnswer} {d : Nat} (w : FieldWrite) (dc : DeviceContext)
    (h : b.dev = .oracle (.ok [0] :: .ok [] :: script) d) (hm : merged 0 w ≠ 0) :
    ∃ b' dc', fieldDone cfgRef w b dc b' dc' true := by
  obtain ⟨dev, log⟩ := b
  subst h
  obtain ⟨_, _, _, h⟩ := field_written cfgRef w 0 script d log dc hm
  exact ⟨_, _, h⟩

/-- A legal state with `len` bytes in the ring, on a device that answers so. -/
def filling (len : U16) (script : List BusAnswer) : State :=
  { orc script with buf := { (orc script).buf with ringLen := len } }

theorem legal_filling (len : U16) (script : List BusAnswer) (h : len.toNat ≤ 512) : (filling len script).Legal :=
  { test_legal with
    buf := { test_legal.buf with }
    ring := ⟨h, fun h => nomatch h⟩
    dev := trivial }

/-- The level and the status a DRAIN of `s` reads. -/
def polled (s : State) (lvl fst : Byte) (b2 : Bus) : Prop :=
  ∃ b1, readOk cfgRef s.bus cfgRef.reg.fifoLvl 1 [lvl] b1 ∧ readOk cfgRef b1 cfgRef.reg.fifoStat 1 [fst] b2

/-- A failed level read and a failed status read; the overflow flag. -/
theorem test_witness_DrainAbortsOnOverflow :
    (filling 512 []).Legal ∧ (∃ b, readFails cfgRef (filling 0 [.fail]).bus cfgRef.reg.fifoLvl 1 b) ∧
    (∃ b1, readOk cfgRef (filling 0 [.ok [0], .fail]).bus cfgRef.reg.fifoLvl 1 [0] b1 ∧
      ∃ b, readFails cfgRef b1 cfgRef.reg.fifoStat 1 b) ∧
    ∃ b2, polled (filling 0 [.ok [0], .ok [0x80], .fail]) 0 0x80 b2 ∧ (0x80 : Byte) &&& cfgRef.mask.fifoOvf ≠ 0 ∧
      ∀ dc, ∃ b dc', fieldFails cfgRef ⟨cfgRef.reg.control, cfgRef.mask.fifoClr, cfgRef.mask.fifoClr⟩ b2 dc b dc' :=
  ⟨legal_filling 512 [] (by decide), ⟨_, rfl⟩, ⟨_, rfl, _, rfl⟩, _, ⟨_, rfl, rfl⟩, by decide,
    fun dc => field_fails _ _ _ _ _ _⟩

/-- Nothing pending; 33 bytes pending (level 8, low bits 1) of which the first chunk of 32 was read: the second read
too, failing, and not fitting a ring with 480 bytes before. -/
theorem test_witness_DrainAbortsOnOverflow_chunks :
    let clear : FieldWrite := ⟨cfgRef.reg.control, cfgRef.mask.fifoClr, cfgRef.mask.fifoClr⟩
    let full : BusAnswer := .ok (List.replicate 32 1)
    (∃ b2, polled (filling 511 [.ok [0], .ok [0x7C]]) 0 0x7C b2 ∧ (0x7C : Byte) &&& cfgRef.mask.fifoOvf = 0 ∧
      chunksRead cfgRef 0 [] b2 b2) ∧
    (∃ b2 b3, polled (filling 479 [.ok [8], .ok [1], full, .ok [2]]) 8 1 b2 ∧
      chunksRead cfgRef 33 [List.replicate 32 1, [2]] b2 b3 ∧ 479 + 33 ≤ 512) ∧
    (∃ b2 b3 b, polled (filling 479 [.ok [8], .ok [1], full, .fail]) 8 1 b2 ∧
      chunksRead cfgRef 33 [List.replicate 32 1] b2 b3 ∧ readFails cfgRef b3 cfgRef.reg.fifoData 1 b) ∧
    ∃ b2 b3, polled (filling 480 [.ok [8], .ok [1], full, .ok [0], .ok []]) 8 1 b2 ∧
      chunksRead cfgRef 33 [List.replicate 32 1] b2 b3 ∧ 480 + 32 ≤ 512 ∧ 512 < 480 + 32 + 1 ∧
      ∀ dc, ∃ b dc', fieldDone cfgRef clear b3 dc b dc' true := by
  refine ⟨⟨_, ⟨_, rfl, rfl⟩, by decide, rfl⟩, ⟨_, _, ⟨_, rfl, rfl⟩, ⟨by decide, _, rfl, by decide, _, rfl, rfl⟩, by decide⟩,
    ⟨_, _, _, ⟨_, rfl, rfl⟩, ⟨by decide, _, rfl, rfl⟩, rfl⟩,
    _, _, ⟨_, rfl, rfl⟩, ⟨by decide, _, rfl, rfl⟩, by decide, by decide, fun dc => ?_⟩
  exact fieldDone_of_bus _ dc (d := 3) (script := []) rfl (by decide)

theorem test_witness_DeinterleaveSplitsPairs :
    (sim (counted 0)).Legal ∧ (sim (counted 0)).flk.sampleCount.toNat = 0 ∧
    ((sim (counted 129)).Legal ∧ cfgRef.flk.fftMax < (sim (counted 129)).flk.sampleCount.toNat) ∧
    ((∃ s : State, s.Legal ∧ s.flk.sampleCount.toNat = 128 ∧ s.buf.ringLen.toNat = 4 * 128 - 1) ∧
      ∃ s : State, s.Legal ∧ s.flk.sampleCount.toNat = 128 ∧ s.buf.ringLen.toNat = 4 * 128) :=
  ⟨legal_counted 0, by decide, ⟨legal_counted 129, by decide⟩,
    ⟨_, legal_ring 511 (by decide), by decide, by decide⟩, _, legal_ring 512 (by decide), by decide, by decide⟩

/-- A configuration with the whole trailer: a frame of 518 bytes. -/
def trailerCfg : Config :=
  { cfgRef with flk := { refFlk with
      metaEndInit := true, metaGainInit := true, metaCsumInit := true, fifoThresholdInit := 518 } }

theorem legal_trailer (len : U16) (h : len.toNat ≤ 518) :
    ({ sim trailerCfg with buf := { (sim trailerCfg).buf with ringLen := len } } : State).Legal where
  cfg := show configOk trailerCfg = true by decide +kernel
  dc := ⟨test_legal.dc.phase, test_legal.dc.lastErr, test_legal.dc.faults, fun _ h => nomatch h⟩
  agc := ⟨test_legal.agc.winSize, test_legal.agc.maxGainC, test_legal.agc.maxGainW⟩
  flk := ⟨rfl, rfl, rfl, rfl, ⟨show 1 ≤ 518 by decide, show 518 ≤ 1024 by decide⟩, test_legal.flk.gain,
    test_legal.flk.avgC, test_legal.flk.avgW, .inl rfl⟩
  als := ⟨rfl, rfl, rfl, test_legal.als.cwRatio, test_legal.als.clearCorr, test_legal.als.wideCorr⟩
  buf := ⟨test_legal.buf.ring, test_legal.buf.clear, test_legal.buf.wide, test_legal.buf.re, test_legal.buf.im,
    test_legal.buf.mag, test_legal.buf.win, test_legal.buf.xfer⟩
  ring := ⟨h, fun h => nomatch h⟩
  dev := test_legal.dev

/-- One byte missing, the whole trailer, and no trailer. -/
theorem test_witness_MetadataFieldsInOrder :
    (∃ s : State, s.Legal ∧ s.flk.metaGain = true ∧ s.flk.metaCsum = true ∧ s.flk.metaEnd = true ∧
      s.flk.sampleCount.toNat = 128 ∧ s.buf.ringLen.toNat = 4 * 128 + 6 - 1) ∧
    (∃ s : State, s.Legal ∧ s.flk.metaGain = true ∧ s.flk.metaCsum = true ∧ s.flk.metaEnd = true ∧
      s.flk.sampleCount.toNat = 128 ∧ s.buf.ringLen.toNat = 4 * 128 + 6) ∧
    ∃ s : State, s.Legal ∧ s.flk.metaGain = false ∧ s.flk.metaCsum = false ∧ s.flk.metaEnd = false ∧
      s.flk.sampleCount.toNat = 128 ∧ s.buf.ringLen.toNat = 4 * 128 :=
  ⟨⟨_, legal_trailer 517 (by decide), rfl, rfl, rfl, by decide, by decide⟩,
    ⟨_, legal_trailer 518 (by decide), rfl, rfl, rfl, by decide, by decide⟩,
    _, legal_ring 512 (by decide), rfl, rfl, rfl, by decide, by decide⟩

theorem test_witness_FifoClearSetsControlBit :
    let clear : FieldWrite := ⟨cfgRef.reg.control, cfgRef.mask.fifoClr, cfgRef.mask.fifoClr⟩
    (∃ b dc, fieldDone cfgRef clear (orc [.ok [0xFD], .ok []]).bus (orc []).dc b dc true) ∧
    (∃ b dc, fieldDone cfgRef clear (orc [.ok [0xFF]]).bus (orc []).dc b dc false) ∧
    ∃ b dc, fieldFails cfgRef clear (orc [.fail]).bus (orc []).dc b dc := by
  refine ⟨?_, ?_, field_fails _ _ _ _ _ _⟩
  · obtain ⟨_, _, _, h⟩ := field_written cfgRef ⟨cfgRef.reg.control, cfgRef.mask.fifoClr, cfgRef.mask.fifoClr⟩ 0xFD [] 0 []
      (orc []).dc (by decide)
    exact ⟨_, _, h⟩
  · obtain ⟨_, _, _, h⟩ := field_kept cfgRef ⟨cfgRef.reg.control, cfgRef.mask.fifoClr, cfgRef.mask.fifoClr⟩ 0xFF [] 0 []
      (orc []).dc (by decide)
    exact ⟨_, _, h⟩

/-! Flicker estimator. -/

theorem test_witness_FrameAveragesAreMeans :
    ((sim (counted 0)).Legal ∧ (sim (counted 0)).flk.sampleCount.toNat = 0) ∧
    ((sim (counted 129)).Legal ∧ cfgRef.flk.fftMax < (sim (counted 129)).flk.sampleCount.toNat) ∧
    ((sim (counted 1)).Legal ∧ 0 < (sim (counted 1)).flk.sampleCount.toNat) ∧
    (sim cfgRef).Legal ∧ (sim cfgRef).flk.sampleCount.toNat = cfgRef.flk.fftMax :=
  ⟨⟨legal_counted 0, by decide⟩, ⟨legal_counted 129, by decide⟩, ⟨legal_counted 1, by decide⟩, test_legal, by decide⟩

/-- The reset state with the gain codes `c`, `w`. -/
def gained (c w : U4) : State := { sim cfgRef with flk := { (sim cfgRef).flk with gain := [c, w] } }

theorem test_witness_GainNormalisation :
    13 < ((gained 14 15).flk.gain.getD 0 0).toNat ∧
    (((gained 13 14).flk.gain.getD 0 0).toNat ≤ 13 ∧ 13 < ((gained 13 14).flk.gain.getD 1 0).toNat) ∧
    (((gained 13 13).flk.gain.getD 0 0).toNat ≤ 13 ∧ ((gained 13 13).flk.gain.getD 1 0).toNat ≤ 13) ∧
    cfgRef.flk.modClear = 0 ∧ cfgRef.flk.modWide = 1 ∧ configOk (gained 13 13).cfg = true :=
  ⟨by decide, by decide, by decide, rfl, rfl, test_config_ok⟩

/-- The last two rows of V-FLK-3 that differ by one count of `MAG[0]`, and a zero average. -/
theorem test_witness_AdaptiveThreshold :
    (thresholdAt 5 0).flk.normC = 0 ∧
    ((thresholdAt 1844674407370955162 1).flk.normC ≠ 0 ∧ 2 ^ 64 ≤ 1844674407370955162 * max 1000 (1000000 / 1) * 10 / 1000000) ∧
    ((thresholdAt 1844674407370955161 1).flk.normC ≠ 0 ∧ 1844674407370955161 * max 1000 (1000000 / 1) * 10 / 1000000 < 2 ^ 64) :=
  by decide

/-- `FLK.sampleCount` and the peak: the frequencies just at and just below 2^32 (1280000 mHz, N = 1). -/
def decided (n b : U16) (m t : U64) : State :=
  { sim cfgRef with flk := { (sim cfgRef).flk with sampleCount := n, peakBin := b, peakMag := m, thresh := t } }

theorem test_witness_FrequencyDecision :
    (decided 0 5 1 0).flk.sampleCount.toNat = 0 ∧
    ((decided 1 5 7 7).flk.sampleCount.toNat ≠ 0 ∧ (decided 1 5 7 7).flk.peakMag.toNat ≤ (decided 1 5 7 7).flk.thresh.toNat) ∧
    ((decided 1 3356 8 7).flk.thresh.toNat < (decided 1 3356 8 7).flk.peakMag.toNat ∧
      2 ^ 32 ≤ (decided 1 3356 8 7).flk.peakBin.toNat * cfgRef.flk.sampleRateMhz.toNat / 1) ∧
    (decided 1 3355 8 7).flk.peakBin.toNat * cfgRef.flk.sampleRateMhz.toNat / 1 < 2 ^ 32 := by decide

theorem test_witness_BinFrequencyConversions :
    (decided 0 0 0 0).flk.sampleCount.toNat = 0 ∧
    ((sim cfgRef).flk.sampleCount.toNat ≠ 0 ∧ 2 ^ 32 ≤ ((withX1 0x100000000 (sim cfgRef)).x[1]).toNat) ∧
    ((withX1 0xFFFFFFFF (sim cfgRef)).x[1]).toNat < 2 ^ 32 ∧
    (0 < cfgRef.flk.sampleRateMhz.toNat ∧
      ((withX1 0xFFFFFFFF (sim cfgRef)).x[1]).toNat * 128 / cfgRef.flk.sampleRateMhz.toNat < 2 ^ 32) := by decide

/-- A ring that holds one frame of `n` samples, all bytes 1, the window still zero, on a device that answers so. -/
def ringedOn (script : List BusAnswer) (n cap : U16) : State :=
  let s := State.attach { cfgRef with flk := { refFlk with sampleCountInit := n, fifoThresholdInit := cap } }
    ⟨.oracle script 0, []⟩ []
  { s with buf := { s.buf with ring := List.replicate 1024 1, ringLen := cap } }

/-- The same with an empty FIFO and a control register that reads 0. -/
def ringed (n cap : U16) : State := ringedOn [.ok [0], .ok [0], .ok [0], .ok []] n cap

/-- Whether a procedure returned. -/
def returned {α : Type} (r : EStateM.Result Raised State α) : Bool :=
  match r with
  | .ok _ _ => true
  | .error _ _ => false

theorem eq_of_returned {p : Proc Unit} {s : State} (h : returned (p s) = true) : p s = .ok () (left (p s)) := by
  revert h
  cases p s with
  | ok u t => exact fun _ => rfl
  | error e t => exact fun h => nomatch h

/-- A spectrum of `n` zeros. -/
def zeros (n : Nat) : Spectrum := ⟨List.replicate n 0, List.replicate n 0⟩

theorem elem_zeros (n i : Nat) : elem (List.replicate n 0) i = 0 := by
  unfold elem
  by_cases h : i < n
  · rw [List.getD_replicate _ h]; rfl
  · rw [List.getD_eq_default _ _ (by simpa using h)]; rfl

theorem store_zeros (n i : Nat) :
    storeRe i 0 (zeros n) = .ok (zeros n) ∧ storeIm i 0 (zeros n) = .ok (zeros n) := by
  have hs : (List.replicate n (0 : U64)).set i (BitVec.ofInt 64 0) = List.replicate n 0 := List.set_replicate_self
  have hf : fitsI64 0 = true := rfl
  constructor
  · rw [storeRe, if_pos hf]; exact congrArg (fun l => (.ok ⟨l, (zeros n).im⟩ : SpectrumResult)) hs
  · rw [storeIm, if_pos hf]; exact congrArg (fun l => (.ok ⟨(zeros n).re, l⟩ : SpectrumResult)) hs

theorem butterfly_zeros (wr wi : Int) (n k p : Nat) : butterfly wr wi k p (zeros n) = .ok (zeros n) := by
  have hf : fitsI64 0 = true := rfl
  have ha : asr 0 16 = 0 := rfl
  have hr : ∀ i, elem (zeros n).re i = 0 := elem_zeros n
  have hi : ∀ i, elem (zeros n).im i = 0 := elem_zeros n
  simp only [butterfly, hr, hi, mul_zero, sub_zero, add_zero, hf, Bool.and_self, if_true, ha, (store_zeros n _).1,
    (store_zeros n _).2, Except.bind]

theorem blocks_zeros (wr wi : Int) (n half len count k : Nat) :
    fftBlocks wr wi half len count k (zeros n) = .ok (zeros n) := by
  induction count generalizing k with
  | zero => rfl
  | succ c ih => rw [fftBlocks, butterfly_zeros]; exact ih _

theorem twiddles_zeros (wpr wpi : Int) (n half len blocks count j : Nat) (w : Int × Int) :
    fftTwiddles wpr wpi half len blocks count j w (zeros n) = .ok (zeros n) := by
  induction count generalizing j w with
  | zero => rfl
  | succ c ih => rw [fftTwiddles, blocks_zeros]; exact ih _ _

theorem stages_zeros (c : Config) (n size count s : Nat) : fftStages c size count s (zeros n) = .ok (zeros n) := by
  induction count generalizing s with
  | zero => rfl
  | succ k ih => rw [fftStages, fftStage, twiddles_zeros]; exact ih _

theorem reverse_zeros : bitReverse (Nat.log2 128) (List.replicate 128 0) = List.replicate 128 0 := by decide +kernel

/-- The transform of 128 zeros is 128 zeros. -/
theorem fft_zeros {s : State} (hc : s.cfg.flk.fftMax = 128) (hr : s.buf.re = List.replicate 128 0)
    (hi : s.buf.im = List.replicate 128 0) : fft 128 s = .ok () (storeSpectrum (zeros 128) s) := by
  have h : fftRun s.cfg (128 : U16).toNat ⟨s.buf.re, s.buf.im⟩ = .ok (zeros 128) := by
    show fftStages s.cfg 128 (Nat.log2 128) 1
      ⟨bitReverse (Nat.log2 128) s.buf.re, bitReverse (Nat.log2 128) s.buf.im⟩ = _
    rw [hr, hi, reverse_zeros]
    exact stages_zeros _ _ _ _ _
  have hn : ¬ s.cfg.flk.fftMax < (128 : U16).toNat := by rw [hc]; decide
  have hp : ((128 : U16) != 0 && isPow2 (128 : U16).toNat) = true := by decide
  simp only [fft, bind_look, if_neg hn, hp, bind_require_true, h, update_run]

/-- The part of the analysis before the transform. -/
def beforeTransform : Proc Unit := do
  deinterleave
  parseMeta
  frameAverages
  gainNormalise
  window

/-- The part of the analysis after the transform. -/
def afterTransform : Proc Unit := do
  magnitude 128
  adaptiveThreshold
  update findPeak
  decideFrequency

theorem analyse_parts (s : State) :
    analyseFrame 128 s = (beforeTransform >>= fun _ => fft 128 >>= fun _ => afterTransform) s := by
  simp only [analyseFrame, beforeTransform, afterTransform, bind_assoc]

/-- `s` with the saturation flag cleared, as FLKEST begins. -/
def started (s : State) : State := { s with flk := { s.flk with satf := false } }

/-- The state the drain of an FLKEST from `s` leaves. -/
def afterDrain (s : State) : State := left (drain (started s))

/-- The state the analysis of 128 samples with a zero window leaves. -/
def analysed (s : State) : State := left (afterTransform (storeSpectrum (zeros 128) (left (beforeTransform s))))

theorem analyse_zeros {s : State} (h1 : returned (beforeTransform s) = true) (hc : (left (beforeTransform s)).cfg.flk.fftMax = 128)
    (hr : (left (beforeTransform s)).buf.re = List.replicate 128 0) (hi : (left (beforeTransform s)).buf.im = List.replicate 128 0)
    (h3 : returned (afterTransform (storeSpectrum (zeros 128) (left (beforeTransform s)))) = true) :
    analyseFrame 128 s = .ok () (analysed s) := by
  rw [analyse_parts, bind_of_ok (eq_of_returned h1), bind_of_ok (fft_zeros hc hr hi), eq_of_returned h3]
  rfl

theorem test_analysis : analyseFrame 128 (afterDrain (ringed 128 512)) = .ok () (analysed (afterDrain (ringed 128 512))) :=
  analyse_zeros (by decide +kernel) (by decide +kernel) (by decide +kernel) (by decide +kernel) (by decide +kernel)

theorem drain_returns {s t : State} {b : Bool} (h : drain s = .ok b t) : callReturns .drain s (flagWord b) t :=
  (callReturns_iff isProcedure_drain).mpr ⟨b, h, Vector.getElem_setIfInBounds_self ..⟩

theorem fifoclr_returns {s : State} (h : returned (fifoClear s) = true) : ∃ r t, callReturns .fifoclr s r t :=
  ⟨_, _, (callReturns_iff isProcedure_fifoclr).mpr ⟨(), eq_of_returned h, rfl⟩⟩

theorem call_raises {α : Type} {i : Instr} {p : Proc α} {out : α → State → Vector U64 8} {s : State} {status : Byte}
    {info : U16} (h : IsProcedure i p out) (hr : raised status info (p s) = true) :
    ∃ t, callRaises i s status info t :=
  let ⟨t, ht⟩ := raises_of_raised hr
  ⟨t, (callRaises_iff h).mpr ht⟩

/-- A failed drain; an empty FIFO and ring; a whole frame above `FFT_MAX`, with a clear that returns and one that
fails. -/
theorem test_witness_FlickerCycle :
    (∃ t, callRaises .drain (started (orc [.fail])) 1 cfgRef.reg.fifoLvl.toNat t) ∧
    (∃ t, callReturns .drain (started (sim cfgRef)) 0 t) ∧
    (∃ t, callReturns .drain (started (ringed 129 516)) 1 t ∧ t.cfg.flk.fftMax < t.flk.sampleCount.toNat ∧
      ∃ r v, callReturns .fifoclr t r v) ∧
    ∃ t, callReturns .drain (started (ringedOn [.ok [0], .ok [0], .fail] 129 516)) 1 t ∧
      ∃ v, callRaises .fifoclr t 1 cfgRef.reg.control.toNat v :=
  ⟨call_raises isProcedure_drain (by decide +kernel), ⟨_, drain_returns (b := false) (eq_of_answered (by decide +kernel))⟩,
    ⟨_, drain_returns (b := true) (eq_of_answered (by decide +kernel)), by decide +kernel,
      fifoclr_returns (by decide +kernel)⟩,
    _, drain_returns (b := true) (eq_of_answered (by decide +kernel)),
    call_raises isProcedure_fifoclr (by decide +kernel)⟩

/-- A whole frame of `FFT_MAX` samples that is analysed, and one of 127 samples, on which WINDOW raises. -/
theorem test_witness_FlickerCycle_analysis :
    (∃ t u, callReturns .drain (started (ringed 128 512)) 1 t ∧ t.flk.sampleCount = 128 ∧ t.cfg.flk.fftMax = 128 ∧
      stepsReturn (analysisSteps 128) t u ∧ ∃ r v, callReturns .fifoclr u r v) ∧
    ∃ t, callReturns .drain (started (ringed 127 508)) 1 t ∧ t.flk.sampleCount = 127 ∧
      ∃ u, stepsRaise (analysisSteps 127) t 3 127 u :=
  ⟨⟨_, _, drain_returns (b := true) (eq_of_answered (by decide +kernel)), by decide +kernel, by decide +kernel,
      (analysis_returns 128).mpr test_analysis, fifoclr_returns (by decide +kernel)⟩,
    _, drain_returns (b := true) (eq_of_answered (by decide +kernel)), by decide +kernel,
    let ⟨u, hu⟩ := raises_of_raised (p := analyseFrame 127) (by decide +kernel)
    ⟨u, (analysis_raises 127).mpr hu⟩⟩

/-- An empty FIFO and one byte less than a frame buffered. -/
theorem test_witness_FlickerCycle_empty :
    ∃ s : State, s.Legal ∧ simAnswers s.bus simDevReset ∧ simDevReset.ovf = false ∧ simDevReset.fifo = [] ∧
      s.buf.ringLen.toNat + 1 = frameBytes s.flk :=
  ⟨_, legal_ring 511 (by decide), ⟨rfl, rfl⟩, rfl, rfl, by decide +kernel⟩

/-! Gain manager. -/

theorem test_witness_GainCodeConversions :
    ((withX1 999 (sim cfgRef)).x[1]).toNat < 1000 ∧ 1000 ≤ ((withX1 1000 (sim cfgRef)).x[1]).toNat ∧
    13 < ((withX1 14 (sim cfgRef)).x[1]).toNat ∧ ((withX1 13 (sim cfgRef)).x[1]).toNat ≤ 13 ∧
    (1000 ≤ ((withX1 16383999 (sim cfgRef)).x[1]).toNat ∧ ((withX1 16383999 (sim cfgRef)).x[1]).toNat < 16384000) ∧
    ((withX1 8192000 (sim cfgRef)).x[1]).toNat = 1000 * 2 ^ 13 := by decide

theorem test_witness_AgcEnableWritesTwoRegisters :
    let c := cfgRef
    let a : FieldWrite := ⟨c.reg.agcA, c.mask.agcA, c.mask.agcA⟩
    let b : FieldWrite := ⟨c.reg.agcB, c.mask.agcB, c.mask.agcB⟩
    configOk (orc []).cfg = true ∧ 1 < (2 : Byte).toNat ∧ (1 : Byte).toNat ≤ 1 ∧
    (∃ bus dc, burstDone c [a, b] (orc [.ok [0xFF], .ok [0xFF]]).bus (orc []).dc bus dc) ∧
    ∃ bus dc, burstFails c [a, b] (orc [.ok [0xFF], .fail]).bus (orc []).dc c.reg.agcB bus dc :=
  ⟨test_config_ok, by decide, by decide, burst_kept cfgRef 0xFF [_, _] 0 [] _ (by decide),
    burst_fails cfgRef 0xFF _ _ 0 [] _ (by decide)⟩

theorem test_witness_AgcModesAreIndependent :
    let c := cfgRef
    let w (on : Byte) (mask : Byte) : FieldWrite := ⟨c.reg.agcMode, if on = 1 then mask else 0, mask⟩
    configOk (orc []).cfg = true ∧ 1 < (2 : Byte).toNat ∧ (1 : Byte).toNat ≤ 1 ∧
    (∃ b dc, fieldDone c (w 1 c.mask.agcSat) (orc [.ok [0], .ok []]).bus (orc []).dc b dc true) ∧
    (∃ b dc, fieldDone c (w 0 c.mask.agcSat) (orc [.ok [0]]).bus (orc []).dc b dc false) ∧
    (∃ b dc, fieldFails c (w 1 c.mask.agcSat) (orc [.fail]).bus (orc []).dc b dc) ∧
    (∃ b dc, fieldDone c (w 1 c.mask.agcPred) (orc [.ok [0], .ok []]).bus (orc []).dc b dc true) ∧
    ∃ b dc, fieldFails c (w 1 c.mask.agcPred) (orc [.ok [0], .fail]).bus (orc []).dc b dc := by
  refine ⟨test_config_ok, by decide, by decide, ?_, ?_, field_fails _ _ _ _ _ _, ?_, field_write_fails _ _ _ _ _ _ _ (by decide)⟩
  · exact fieldDone_of_bus _ _ (d := 0) (script := []) rfl (by decide)
  · obtain ⟨_, _, _, h⟩ := field_kept cfgRef ⟨cfgRef.reg.agcMode, if (0 : Byte) = 1 then cfgRef.mask.agcSat else 0,
      cfgRef.mask.agcSat⟩ 0 [] 0 [] (orc []).dc (by decide)
    exact ⟨_, _, h⟩
  · exact fieldDone_of_bus _ _ (d := 0) (script := []) rfl (by decide)

/-- Narrower AGC fields: a window mask of 4 bits, a clear ceiling of 3. -/
def narrowCfg : Config := { cfgRef with mask := { refMasks with agcWin := 0x0F, agcMaxgC := 0x07 } }

theorem test_witness_AgcFields :
    configOk narrowCfg = true ∧ (0x10 : Byte) &&& ~~~narrowCfg.mask.agcWin ≠ 0 ∧
    (0x0F : Byte) &&& ~~~narrowCfg.mask.agcWin = 0 ∧
    (∃ b dc, fieldDone cfgRef ⟨cfgRef.reg.agcWin, 0xFF, cfgRef.mask.agcWin⟩ (orc [.ok [0], .ok []]).bus (orc []).dc b dc true) ∧
    (∃ b dc, fieldFails cfgRef ⟨cfgRef.reg.agcWin, 0xFF, cfgRef.mask.agcWin⟩ (orc [.fail]).bus (orc []).dc b dc) ∧
    1 < (2 : Byte).toNat ∧ ((1 : Byte).toNat ≤ 1 ∧ 13 < (14 : Byte).toNat) ∧
    (BitVec.ofNat 8 ((8 : Byte).toNat * 2 ^ narrowCfg.mask.agcMaxgCShift) &&& ~~~narrowCfg.mask.agcMaxgC ≠ 0) ∧
    ((13 : Byte).toNat * 2 ^ cfgRef.mask.agcMaxgWShift < 256 ∧
      BitVec.ofNat 8 ((13 : Byte).toNat * 2 ^ cfgRef.mask.agcMaxgWShift) &&& ~~~cfgRef.mask.agcMaxgW = 0) ∧
    (∃ b dc, fieldDone cfgRef ⟨cfgRef.reg.agcMaxg, 0xD0, cfgRef.mask.agcMaxgW⟩ (orc [.ok [0], .ok []]).bus (orc []).dc b dc true) ∧
    ∃ b dc, fieldFails cfgRef ⟨cfgRef.reg.agcMaxg, 0xD0, cfgRef.mask.agcMaxgW⟩ (orc [.fail]).bus (orc []).dc b dc :=
  ⟨by decide +kernel, by decide, by decide, fieldDone_of_bus _ _ (d := 0) (script := []) rfl (by decide),
    field_fails _ _ _ _ _ _, by decide, by decide, by decide, by decide,
    fieldDone_of_bus _ _ (d := 0) (script := []) rfl (by decide), field_fails _ _ _ _ _ _⟩

/-! ALS. -/

theorem test_witness_AlsCalculation :
    configOk (sim cfgRef).cfg = true ∧ 2 ^ 31 ≤ ((withX1 0x80000000 (sim cfgRef)).x[1]).toNat ∧
    ((withX1 0x7FFFFFFF (sim cfgRef)).x[1]).toNat < 2 ^ 31 ∧ ((withX1 0x7FFFFFFF (sim cfgRef)).x[2]).toNat < 2 ^ 31 ∧
    (sim cfgRef).cfg.als.luxAverage = .halfSum :=
  ⟨test_config_ok, by decide, by decide, by decide, rfl⟩

/-- A status byte of which the whole is the clear scale. -/
def wideScale : Config := { cfgRef with mask := { refMasks with scaleC := 0xFF } }

/-- `BUS_XFER_MAX` just below and at the size of the data block, too. -/
theorem test_witness_AlsSample :
    let c := cfgRef
    (configOk { c with bus := { c.bus with xferMax := 3 } } = true ∧
      configOk { c with bus := { c.bus with xferMax := 4 } } = true) ∧
    configOk wideScale = true ∧ 15 < ((0x10 : Byte) &&& wideScale.mask.scaleC).toNat / 2 ^ wideScale.mask.scaleCShift ∧
    (((0xFF : Byte) &&& c.mask.scaleC).toNat / 2 ^ c.mask.scaleCShift ≤ 15 ∧
      ((0xFF : Byte) &&& c.mask.scaleW).toNat / 2 ^ c.mask.scaleWShift ≤ 15) ∧
    (∃ b, readFails c (orc [.fail]).bus c.reg.alsData 4 b) ∧
    (∃ b1, readOk c (orc [.ok [1, 2, 3, 4], .fail]).bus c.reg.alsData 4 [1, 2, 3, 4] b1 ∧
      ∃ b, readFails c b1 c.reg.alsStat 1 b) ∧
    ∃ b1, readOk c (orc [.ok [1, 2, 3, 4], .ok [0xFF]]).bus c.reg.alsData 4 [1, 2, 3, 4] b1 ∧
      ∃ b2, readOk c b1 c.reg.alsStat 1 [0xFF] b2 :=
  ⟨⟨by decide +kernel, by decide +kernel⟩, by decide +kernel, by decide, by decide, ⟨_, rfl⟩, ⟨_, rfl, _, rfl⟩, _, rfl, _, rfl⟩

theorem test_witness_AlsEquivalent : configOk (sim cfgRef).cfg = true := test_config_ok

/-! Dispatcher and configuration. -/

/-- Status 0; both bits latched with both features off. -/
theorem test_witness_DispatchServesAndClears :
    let c := cfgRef
    configOk c = true ∧
    (∃ b1, readOk c (orc [.ok [0], .ok [0]]).bus c.reg.status 1 [0] b1 ∧ ∃ b2, readOk c b1 c.reg.status 1 [0] b2) ∧
    ((0x0C : Byte) ≠ 0 ∧ (orc []).dc.mode.getLsbD 1 = false ∧ (orc []).dc.mode.getLsbD 0 = false ∧
      ∃ b1, readOk c (orc [.ok [0x0C], .ok [], .ok [0]]).bus c.reg.status 1 [0x0C] b1 ∧
      ∃ b2, writeOk c b1 c.reg.status [0x0C] b2 ∧ ∃ b3, readOk c b2 c.reg.status 1 [0] b3) :=
  ⟨test_config_ok, ⟨_, rfl, _, rfl⟩, by decide, by decide, by decide, _, rfl, _, rfl, _, rfl⟩

theorem pass_returns {s : State} {v : Byte} (h : answered v (dispatchPass s) = true) : ∃ t, passReturns s v t :=
  ⟨_, (passReturns_iff v).mpr (eq_of_answered h)⟩

theorem pass_raises {s : State} {status : Byte} {info : U16} (h : raised status info (dispatchPass s) = true) :
    ∃ t, passRaises s status info t :=
  let ⟨t, ht⟩ := raises_of_raised h
  ⟨t, passRaises_iff.mpr ht⟩

/-- A first pass that ends; a second one; the last one that a cap of 1 allows; the ALS bit with ALS on; the flicker
bit with flicker on and an empty FIFO. -/
theorem test_witness_DispatchServesAndClears_passes :
    configOk (dispatching (.passes 1) 0 []).cfg = true ∧ configOk (dispatching (.unbounded 0) 0 []).cfg = true ∧
    (∃ t, passReturns (dispatching (.passes 4) 0 [.ok [0], .ok [0]]) 0 t) ∧
    (∃ u t, unfinishedPasses 1 (dispatching (.passes 4) 0
        [.ok [0x10], .ok [], .ok [0x10], .ok [0x10], .ok [], .ok [0]]) u ∧ passReturns u 0 t) ∧
    (∃ t, passReturns (dispatching (.passes 1) 0 [.ok [0x10], .ok [], .ok [0x10]]) 0x10 t) ∧
    (∃ t, passReturns (dispatching (.passes 4) 1 [.ok [8], .ok [1, 2, 3, 4], .ok [0x11], .ok [], .ok [0]]) 0 t) ∧
    ∃ t, passReturns (dispatching (.passes 4) 2 [.ok [4], .ok [0], .ok [0], .ok [], .ok [0]]) 0 t :=
  ⟨by decide +kernel, by decide +kernel, pass_returns (by decide +kernel),
    ⟨_, _, ⟨0x10, _, (passReturns_iff _).mpr (eq_of_answered (by decide +kernel)), by decide, rfl⟩, (passReturns_iff _).mpr (eq_of_answered (by decide +kernel))⟩,
    pass_returns (by decide +kernel), pass_returns (by decide +kernel), pass_returns (by decide +kernel)⟩

/-- Each step of a pass that can raise: the read, FLKEST, ALSSMP, the write-back, the re-read. -/
theorem test_witness_DispatchServesAndClears_raises :
    (∃ t, passRaises (dispatching (.passes 4) 0 [.fail]) 1 2 t) ∧
    (∃ t, passRaises (dispatching (.passes 4) 2 [.ok [4], .fail]) 1 6 t) ∧
    (∃ t, passRaises (dispatching (.passes 4) 1 [.ok [8], .fail]) 1 10 t) ∧
    (∃ t, passRaises (dispatching (.passes 4) 0 [.ok [1], .fail]) 1 2 t) ∧
    ∃ t, passRaises (dispatching (.passes 4) 0 [.ok [1], .ok [], .fail]) 1 2 t :=
  ⟨pass_raises (by decide +kernel), pass_raises (by decide +kernel), pass_raises (by decide +kernel),
    pass_raises (by decide +kernel), pass_raises (by decide +kernel)⟩

theorem pass_of_parts {s s1 s2 : State} {st v : Byte} (h0 : readStatus s = .ok st s1) (h1 : serveFlicker st s1 = .ok () s2)
    (h2 : answered v ((serveAls st >>= fun _ => writeBack st >>= fun _ => readStatus) s2) = true) :
    ∃ t, passReturns s v t := by
  refine ⟨left ((serveAls st >>= fun _ => writeBack st >>= fun _ => readStatus) s2), (passReturns_iff v).mpr ?_⟩
  unfold dispatchPass
  rw [bind_of_ok h0, bind_of_ok h1]
  exact eq_of_answered h2

theorem cycle_analysed {s t u v : State} (h1 : drain (started s) = .ok true t) (hn : t.flk.sampleCount = 128)
    (hf : decide ((128 : U16).toNat ≤ t.cfg.flk.fftMax) = true) (h2 : analyseFrame 128 t = .ok () u)
    (h3 : fifoClear u = .ok () v) : flickerCycle s = .ok true (emptyRing v) := by
  show (drain >>= _) (started s) = _
  rw [bind_of_ok h1, if_pos rfl, bind_look, bind_look, hn, hf, onlyIf_true, bind_of_ok h2, bind_of_ok h3]
  rfl

theorem flicker_served {s u v : State} {st : Byte} (hd : (bitSet st s.cfg.mask.stFlk && bitSet s.dc.mode modeFlk) = true)
    (h1 : flickerCycle s = .ok true u) (h2 : alsEquivalent u = .ok () v) :
    serveFlicker st s = .ok () (raiseUpdate (alsUpd ||| swflkUpd) v) := by
  unfold serveFlicker
  rw [bind_look, bind_look, hd, onlyIf_true]
  unfold flickerBranch
  rw [bind_of_ok h1, onlyIf_true, bind_of_ok h2]
  rfl

/-- A DISPATCH that has begun with flicker on, a whole frame in the ring and the flicker bit latched. -/
def flickering : State :=
  let s := ringedOn [.ok [4], .ok [0], .ok [0], .ok [0], .ok [], .ok [], .ok [0]] 128 512
  { s with dc := { s.dc with phase := .dispatch, mode := 2 } }

/-- `flickering` after its status read, and after FLKEST. -/
def flickerRead : State := left (readStatus flickering)
def flickerDone : State := emptyRing (left (fifoClear (analysed (afterDrain flickerRead))))

/-- The flicker bit with a frame that is analysed: FLKEST returns 1, and the pass ends. -/
theorem test_witness_DispatchServesAndClears_flicker :
    configOk flickering.cfg = true ∧ callReturns .flkest flickerRead 1 flickerDone ∧
    ∃ t, passReturns flickering 0 t := by
  have h0 : readStatus flickering = .ok 4 flickerRead := eq_of_answered (by decide +kernel)
  have h1 : drain (started flickerRead) = .ok true (afterDrain flickerRead) := eq_of_answered (by decide +kernel)
  have h2 : analyseFrame 128 (afterDrain flickerRead) = .ok () (analysed (afterDrain flickerRead)) :=
    analyse_zeros (by decide +kernel) (by decide +kernel) (by decide +kernel) (by decide +kernel) (by decide +kernel)
  have h3 := eq_of_returned (p := fifoClear) (s := analysed (afterDrain flickerRead)) (by decide +kernel)
  have h4 : flickerCycle flickerRead = .ok true flickerDone :=
    cycle_analysed h1 (by decide +kernel) (by decide +kernel) h2 h3
  have h5 := eq_of_returned (p := alsEquivalent) (s := flickerDone) (by decide +kernel)
  exact ⟨by decide +kernel, (flkest_returns true).mpr h4,
    pass_of_parts h0 (flicker_served (by decide +kernel) h4 h5) (by decide +kernel)⟩

/-- A cap of one pass and the reference cap. -/
theorem test_witness_StuckInterruptAfterCap :
    configOk cfgRef = true ∧ cfgRef.dispatchCap = .passes 4 ∧ (orc []).dc.mode = 0 ∧ (0x10 : Byte) ≠ 0 ∧
    (orc (List.replicate 4 [.ok [0x10], .ok [], .ok [0x10]]).flatten).bus.dev =
      .oracle ((List.replicate 4 [.ok [0x10], .ok [], .ok [0x10]]).flatten ++ []) 0 ∧
    configOk { cfgRef with dispatchCap := .passes 1 } = true :=
  ⟨test_config_ok, rfl, rfl, by decide, rfl, by decide +kernel⟩

theorem test_witness_FeatureEnable :
    let c := cfgRef
    (orc []).Legal ∧ 1 < (2 : Byte).toNat ∧ (1 : Byte).toNat ≤ 1 ∧
    (({ (orc []).dc with mode := 1, trig := .int } : DeviceContext).mode ≠ 0 ∧ Trigger.int ≠ .poll) ∧
    (orc []).dc.mode = 0 ∧
    (∃ bus dc, burstDone c c.bus.enFlkInt (orc [.ok [0xFF], .ok [0xFF]]).bus (orc []).dc bus dc) ∧
    (∃ bus dc, burstDone c c.bus.enAlsPoll (orc [.ok [0xFF]]).bus (orc []).dc bus dc) ∧
    ∃ bus dc, burstFails c c.bus.enAlsInt (orc [.ok [0xFF], .fail]).bus (orc []).dc c.reg.intenab bus dc :=
  ⟨{ test_legal with dev := trivial }, by decide, by decide, by decide, rfl,
    burst_kept cfgRef 0xFF [_, _] 0 [] _ (by decide), burst_kept cfgRef 0xFF [_] 0 [] _ (by decide),
    burst_fails cfgRef 0xFF _ _ 0 [] _ (by decide)⟩

theorem test_witness_FeatureDisable :
    let c := cfgRef
    configOk c = true ∧ 1 < (2 : Byte).toNat ∧ (1 : Byte).toNat ≤ 1 ∧
    (∃ bus dc, burstDone c c.bus.disFlk (orc [.ok [0], .ok [0]]).bus (orc []).dc bus dc) ∧
    ∃ bus dc, burstFails c c.bus.disAls (orc [.ok [0], .fail]).bus (orc []).dc c.reg.intenab bus dc :=
  ⟨test_config_ok, by decide, by decide, burst_kept cfgRef 0 [_, _] 0 [] _ (by decide),
    burst_fails cfgRef 0 _ _ 0 [] _ (by decide)⟩

/-- On the reference device every list of setFields is done. -/
theorem burst_on_sim (c : Config) (ws : List FieldWrite) (d : SimDev) (log : List BusTx) (dc : DeviceContext)
    (hd : d.outcomes = []) : ∃ b dc', burstDone c ws ⟨.sim d, log⟩ dc b dc' := by
  induction ws generalizing d log dc with
  | nil => exact ⟨_, _, rfl, rfl⟩
  | cons w ws ih =>
    obtain ⟨bytes, d1, hd1, hr⟩ := sim_reads c d log (regAddr c w.reg.toNat) 1 hd
    obtain ⟨v, rfl⟩ := List.length_eq_one_iff.mp (busRead_length hr)
    by_cases hm : merged v w = v
    · obtain ⟨b, dc', h⟩ := ih d1 _ (noteRead c w.reg v dc) hd1
      exact ⟨b, dc', _, _, false, ⟨v, _, hr, .inl ⟨hm, rfl, rfl, rfl⟩⟩, h⟩
    · obtain ⟨d2, hd2, hw⟩ := sim_writes c d1 (.read (regAddr c w.reg.toNat) 1 (some [v]) :: log)
        (regAddr c w.reg.toNat) [merged v w] hd1
      obtain ⟨b, dc', h⟩ := ih d2 _ (noteWrite c w.reg (merged v w) (noteRead c w.reg v dc)) hd2
      exact ⟨b, dc', _, _, true, ⟨v, _, hr, .inr ⟨hm, rfl, hw, rfl⟩⟩, h⟩

/-- The threshold's limits: 0 and `RING_MAX + 1` refused, `RING_MAX` accepted; the reference list and a free one. -/
theorem test_witness_SetThreshold :
    let c := cfgRef
    let seq : List FieldWrite := [⟨c.reg.fifoThr, BitVec.ofNat 8 (1024 : U16).toNat, 0xFF⟩,
      ⟨c.reg.fifoThrH, BitVec.ofNat 8 ((1024 : U16).toNat / 256), 0xFF⟩]
    let free : Config := { c with thrWrites := .free 0 }
    configOk c = true ∧ c.thrWrites = .lowHigh ∧ c.flk.ringMax < (1025 : U16).toNat ∧
    ((1024 : U16) ≠ 0 ∧ (1024 : U16).toNat ≤ c.flk.ringMax) ∧
    (configOk free = true ∧ ∃ bus dc, burstDone free (thrWriteList free 1024) (sim free).bus (sim free).dc bus dc) ∧
    (∃ bus dc, burstDone c seq (orc [.ok [0], .ok [0], .ok []]).bus (orc []).dc bus dc) ∧
    ∃ bus dc, burstFails c seq (orc [.ok [0], .fail]).bus (orc []).dc c.reg.fifoThrH bus dc := by
  refine ⟨test_config_ok, rfl, by decide, by decide, ⟨by decide +kernel, burst_on_sim _ _ _ _ _ rfl⟩, ?_,
    burst_fails cfgRef 0 _ _ 0 [] _ (by decide)⟩
  obtain ⟨d, log, dc, h1⟩ := field_kept cfgRef ⟨cfgRef.reg.fifoThr, BitVec.ofNat 8 (1024 : U16).toNat, 0xFF⟩ 0
    [.ok [0], .ok []] 0 [] (orc []).dc (by decide)
  obtain ⟨d2, log2, dc2, h2⟩ := field_written cfgRef ⟨cfgRef.reg.fifoThrH, BitVec.ofNat 8 ((1024 : U16).toNat / 256), 0xFF⟩
    0 [] d log dc (by decide)
  exact ⟨_, _, _, _, _, h1, _, _, _, h2, rfl, rfl⟩

end Sys2Proof.Tests
end

section
/-! What a step does with each act of HOST, and the three answers of a block: it is not attached, its
configuration is ill-formed, or it answers (00_scope.md R5, R7, 70_reset_and_hazards.md R289). -/

namespace Sys2Proof.Machine

section
variable {s : State} {rest : List HostAct}

/-- A step takes HOST's first act off the inbox and does it. -/
theorem step_of_inbox_cons {act : HostAct} (h : s.inbox = act :: rest) :
    step s = hostAct act { s with inbox := rest } := by
  unfold step takeAct
  rw [h]

theorem ifAttached_of_attached {answer : Outcome} (ha : s.attached = true) (hc : configOk s.cfg = true) :
    ifAttached s answer = answer := by
  simp [ifAttached, ha, hc]

theorem ifAttached_of_illFormed {answer : Outcome} (ha : s.attached = true) (hc : configOk s.cfg = false) :
    ifAttached s answer = .refused .illFormedConfig := by
  simp [ifAttached, ha, hc]

theorem ifAttached_of_detached {answer : Outcome} (ha : s.attached = false) :
    ifAttached s answer = .refused .notAttached := by
  simp [ifAttached, ha]

theorem runCommand_of_decode {cw : U32} {i : Instr} (h : decode cw = .ok i) : runCommand cw s = exec i s := by
  simp [runCommand, h]

theorem attachBlock_of_illFormed {c : Config} (hc : configOk c = false) :
    attachBlock c s = .refused .illFormedConfig := by
  simp [attachBlock, hc]

theorem step_of_command {cw : U32} {during : List U32} (h : s.inbox = .command cw during :: rest) :
    step s = ifAttached { s with inbox := rest } (runCommand cw (refuseAll during { s with inbox := rest })) :=
  step_of_inbox_cons h

theorem step_of_attach {c : Config} (h : s.inbox = .attach c :: rest) :
    step s = attachBlock c { s with inbox := rest } :=
  step_of_inbox_cons h

theorem step_of_detach (h : s.inbox = .detach :: rest) :
    step s = ifAttached { s with inbox := rest } (.next (detachBlock { s with inbox := rest })) :=
  step_of_inbox_cons h

end

@[simp] theorem detachBlock_attached (s : State) : (detachBlock s).attached = false := rfl
@[simp] theorem detachBlock_bus (s : State) : (detachBlock s).bus = s.bus := rfl
@[simp] theorem detachBlock_inbox (s : State) : (detachBlock s).inbox = s.inbox := rfl

/-- Settles O5: the block answers, and the word it runs decodes to `i`. -/
theorem stepRunsDecodedInstruction : Obligations.StepRunsDecodedInstruction := by
  intro s cw during rest i hin hatt hcfg hdec
  calc step s
      = ifAttached { s with inbox := rest } (runCommand cw (refuseAll during { s with inbox := rest })) :=
        step_of_command hin
    _ = runCommand cw (refuseAll during { s with inbox := rest }) := ifAttached_of_attached hatt hcfg
    _ = exec i (refuseAll during { s with inbox := rest }) := runCommand_of_decode hdec

/-- Settles O9, one act of HOST after the other: an attach, the two refused commands, a detach. -/
theorem absentOrIllFormedBlockRefuses : Obligations.AbsentOrIllFormedBlockRefuses := by
  refine ⟨?attach, ?illFormed, ?detached, ?detach⟩
  case attach =>
    intro s c rest hin hcfg
    exact (step_of_attach hin).trans (attachBlock_of_illFormed hcfg)
  case illFormed =>
    intro s cw during rest hin hatt hcfg
    exact (step_of_command hin).trans (ifAttached_of_illFormed hatt hcfg)
  case detached =>
    intro s cw during rest hin hatt
    exact (step_of_command hin).trans (ifAttached_of_detached hatt)
  case detach =>
    intro s rest hin hatt hcfg
    have hstep : step s = .next (detachBlock { s with inbox := rest }) :=
      (step_of_detach hin).trans (ifAttached_of_attached hatt hcfg)
    exact ⟨_, hstep, detachBlock_attached _, detachBlock_bus _, detachBlock_inbox _⟩

end Sys2Proof.Machine
end

section
/-! The state after an attach: a hard reset with a well-formed configuration gives every group of state its reset
value, which lies in its legal range (10_state.md R23 to R38, R46, 70_reset_and_hazards.md R286). -/

namespace Sys2Proof.Machine

/-- The lists and thresholds a well-formed configuration gives the flicker context at reset
(00_scope.md R6, R7 (e)). -/
theorem configOk_flickerInit {c : Config} (h : configOk c = true) :
    c.flk.gainInit.length = c.flk.nMod ∧ 1 ≤ c.flk.fifoThresholdInit.toNat ∧
      c.flk.fifoThresholdInit.toNat ≤ c.flk.ringMax := by
  simp only [configOk, estimatorOk, Bool.and_eq_true, beq_iff_eq, decide_eq_true_eq] at h
  tauto

theorem deviceContextReset_legal (c : Config) : DeviceContextLegal c (deviceContextReset c) where
  phase := rfl
  lastErr := show (0 : Byte).toNat ≤ 8 ∧ (0 : Byte) ≠ statusOf .busy by decide
  faults := by simp [deviceContextReset]
  variant := by simp [deviceContextReset]

theorem agcReset_legal (c : Config) : AgcLegal c agcReset where
  winSize := BitVec.zero_and
  maxGainC := Nat.zero_le _
  maxGainW := Nat.zero_le _

/-- After a (re-)initialisation the flicker context is legal when the FIFO threshold it keeps is. -/
theorem flickerInit_legal {c : Config} {thr : U16} (hc : configOk c = true)
    (hthr : 1 ≤ thr.toNat ∧ thr.toNat ≤ c.flk.ringMax) : FlickerLegal c (flickerInit c thr) where
  sampleCount := rfl
  metaEnd := rfl
  metaGain := rfl
  metaCsum := rfl
  threshold := hthr
  gain := (configOk_flickerInit hc).1
  avgC := Nat.zero_le _
  avgW := Nat.zero_le _
  peakBin := .inl rfl

theorem alsInit_legal (c : Config) : AlsLegal c (alsInit c) where
  coefA := rfl
  coefB := rfl
  itime := rfl
  cwRatio := Nat.zero_le _
  clearCorr := Nat.zero_le _
  wideCorr := Nat.zero_le _

theorem buffersReset_sized (c : Config) : BuffersSized c (buffersReset c) where
  ring := List.length_replicate
  clear := List.length_replicate
  wide := List.length_replicate
  re := List.length_replicate
  im := List.length_replicate
  mag := List.length_replicate
  win := List.length_replicate
  xfer := List.length_replicate

/-- The empty ring of a reset is within any threshold, and not marked ready. -/
theorem buffersReset_ringLegal (c : Config) (thr : U16) : RingLegal (flickerInit c thr) (buffersReset c) where
  len := Nat.zero_le _
  ready := nofun

/-- Every element of every buffer is 0 after a hard reset, the buffers taken by their element type. -/
theorem buffersReset_elements_zero (c : Config) :
    (∀ v ∈ (buffersReset c).ring ++ (buffersReset c).xfer, v = 0) ∧
    (∀ v ∈ (buffersReset c).clear ++ (buffersReset c).wide, v = 0) ∧
    (∀ v ∈ (buffersReset c).re ++ (buffersReset c).im ++ (buffersReset c).mag, v = 0) ∧
    ∀ v ∈ (buffersReset c).win, v = 0 := by
  simp [buffersReset]

/-- A block attached with a well-formed configuration, on a bus whose device is legal, is legal. -/
theorem State.attach_legal {c : Config} {bus : Bus} (hc : configOk c = true) (hdev : deviceLegal bus.dev)
    (inbox : List HostAct) : (State.attach c bus inbox).Legal where
  cfg := hc
  dc := deviceContextReset_legal c
  agc := agcReset_legal c
  flk := flickerInit_legal hc (configOk_flickerInit hc).2
  als := alsInit_legal c
  buf := buffersReset_sized c
  ring := buffersReset_ringLegal c _
  dev := hdev

theorem State.attach_x (c : Config) (bus : Bus) (inbox : List HostAct) (r : Fin 8) :
    (State.attach c bus inbox).x[r] = 0 :=
  Vector.getElem_replicate r.isLt

theorem attachBlock_of_wellFormed {c : Config} (hc : configOk c = true) (s : State) :
    attachBlock c s = .next (State.attach c s.bus s.inbox) :=
  if_pos hc

theorem step_of_writeX {s : State} {r : Fin 8} {v : U64} {rest : List HostAct} (h : s.inbox = .writeX r v :: rest) :
    step s = ifAttached { s with inbox := rest } (.next (setX r.val v { s with inbox := rest })) :=
  step_of_inbox_cons h

theorem configOk_cfgRef : configOk cfgRef = true := by decide +kernel

/-- Settles O8: the step is the hard reset with the new configuration on the same bus. -/
theorem attachResetsTheBlock : Obligations.AttachResetsTheBlock := by
  intro s c rest hin hcfg
  have hstep : step s = .next (State.attach c s.bus rest) :=
    (step_of_attach hin).trans (attachBlock_of_wellFormed hcfg _)
  exact ⟨_, hstep, rfl, rfl, rfl, rfl, rfl, State.attach_x c s.bus rest, rfl, rfl, rfl, rfl, rfl,
    buffersReset_sized c, rfl, buffersReset_elements_zero c⟩

/-- Settles O10: the block answers, and the register HOST names exists. -/
theorem hostWritesOperandRegister : Obligations.HostWritesOperandRegister := by
  intro s r v rest hin hatt hcfg
  calc step s
      = ifAttached { s with inbox := rest } (.next (setX r.val v { s with inbox := rest })) := step_of_writeX hin
    _ = .next (setX r.val v { s with inbox := rest }) := ifAttached_of_attached hatt hcfg
    _ = .next { s with x := s.x.set r.val v, inbox := rest } := congrArg _ (setX_of_lt r.isLt v _)

/-- Settles O18: reset is an attach with `CFG_REF`, and a device of which nothing is known is legal. -/
theorem resetIsLegal : Obligations.ResetIsLegal := by
  have hdev : deviceLegal (.oracle [] 0) := trivial
  show (State.attach cfgRef ⟨.oracle [] 0, []⟩ []).Legal
  exact State.attach_legal configOk_cfgRef hdev []

end Sys2Proof.Machine
end

section
/-! The error counter (20_memory.md R63 (a), 60_exceptions.md R257). A failed transaction counts one error and raises
TransportError; no rule of the pseudocode handles a fault, so a procedure counts one error exactly when it raises
TransportError, and none otherwise. Every way of building a procedure keeps that. -/

namespace Sys2Proof.Machine

variable {α β : Type}

/-- How many failed transactions the ending of a procedure stands for: one when it raises TransportError. -/
def failureCount : EStateM.Result Raised State α → U32
  | .ok _ _ => 0
  | .error e _ => if e.code = .transportError then 1 else 0

@[simp] theorem failureCount_ok (a : α) (t : State) :
    failureCount (.ok a t : EStateM.Result Raised State α) = 0 := rfl

@[simp] theorem failureCount_error (e : Raised) (t : State) :
    failureCount (.error e t : EStateM.Result Raised State α) = if e.code = .transportError then 1 else 0 := rfl

/-- A run from `s` with this ending has counted exactly the failures it stands for. -/
def Accounted (s : State) (r : EStateM.Result Raised State α) : Prop :=
  (left r).dc.errcnt = s.dc.errcnt + failureCount r

/-- A procedure counts one error when it raises TransportError and none however else it ends. -/
def CountsFailures (p : Proc α) : Prop := ∀ s, Accounted s (p s)

theorem accounted_ok_iff {a : α} {s t : State} :
    Accounted s (.ok a t : EStateM.Result Raised State α) ↔ t.dc.errcnt = s.dc.errcnt := by
  simp [Accounted]

/-- An ending accounted for from a state with the same count. -/
theorem Accounted.of_errcnt_eq {s u : State} {r : EStateM.Result Raised State α} (h : Accounted u r)
    (hu : u.dc.errcnt = s.dc.errcnt) : Accounted s r := by
  unfold Accounted at *
  rw [h, hu]

/-! ### The ways of building a procedure -/

variable {p : Proc α} {k : α → Proc β}

theorem counts_pure (a : α) : CountsFailures (pure a : Proc α) := fun _ => accounted_ok_iff.mpr rfl

theorem counts_look (f : State → α) : CountsFailures (look f) := fun _ => accounted_ok_iff.mpr rfl

theorem counts_update {f : State → State} (h : ∀ s, (f s).dc.errcnt = s.dc.errcnt) : CountsFailures (update f) :=
  fun s => accounted_ok_iff.mpr (h s)

theorem counts_raise {code : FaultCode} (h : code ≠ .transportError) (info : U16) :
    CountsFailures (raise code info : Proc α) := fun s => by
  simp [Accounted, h]

theorem counts_require (ok : Bool) (info : U16) : CountsFailures (require ok info) := by
  cases ok
  · exact counts_raise (by decide) info
  · exact counts_pure ()

/-- What follows a part that returned starts at an unchanged count; what follows a fault does not run. -/
theorem counts_bind (hp : CountsFailures p) (hk : ∀ a, CountsFailures (k a)) : CountsFailures (p >>= k) := fun s => by
  have hs := hp s
  rw [bind_run]
  cases hps : p s with
  | ok a t =>
    rw [hps] at hs
    exact (hk a t).of_errcnt_eq (accounted_ok_iff.mp hs)
  | error e t => rwa [hps] at hs

theorem counts_look_bind {f : State → α} (hk : ∀ a, CountsFailures (k a)) : CountsFailures (look f >>= k) :=
  counts_bind (counts_look f) hk

theorem counts_require_bind {ok : Bool} {info : U16} {k : Unit → Proc β} (hk : ∀ a, CountsFailures (k a)) :
    CountsFailures (require ok info >>= k) :=
  counts_bind (counts_require ok info) hk

/-- A procedure whose returned value is then stored. -/
theorem counts_then_update {f : α → State → State} (hp : CountsFailures p)
    (hf : ∀ a s, (f a s).dc.errcnt = s.dc.errcnt) : CountsFailures (p >>= fun a => update (f a)) :=
  counts_bind hp fun a => counts_update (hf a)

theorem counts_ite (c : Prop) [Decidable c] {p q : Proc α} (hp : CountsFailures p) (hq : CountsFailures q) :
    CountsFailures (if c then p else q) := by
  split
  · exact hp
  · exact hq

theorem counts_onlyIf (c : Bool) {p : Proc Unit} (hp : CountsFailures p) : CountsFailures (onlyIf c p) := by
  cases c
  · exact counts_pure ()
  · exact hp

/-! ### Register access (40_register_access.md R110 to R118): the only place where an error is counted -/

theorem counts_transactRead (reg : Byte) (n : Nat) : CountsFailures (transactRead reg n) := fun s => by
  cases hb : busRead s.cfg s.bus (regAddr s.cfg reg.toNat) n with
  | mk answer bus =>
    cases answer with
    | some bytes => rw [transactRead_ok hb]; exact accounted_ok_iff.mpr rfl
    | none => rw [transactRead_fail hb]; rfl

theorem counts_transactWrite (reg : Byte) (bytes : List Byte) : CountsFailures (transactWrite reg bytes) := fun s => by
  cases hb : busWrite s.cfg s.bus (regAddr s.cfg reg.toNat) bytes with
  | mk done bus =>
    cases done with
    | true => rw [transactWrite_ok hb]; exact accounted_ok_iff.mpr rfl
    | false => rw [transactWrite_fail hb]; rfl

theorem counts_checkReg (reg : Byte) : CountsFailures (checkReg reg) :=
  counts_look_bind fun _ => counts_require _ _

theorem counts_checkWordReg (reg : Byte) : CountsFailures (checkWordReg reg) :=
  counts_look_bind fun _ => counts_require_bind fun _ => counts_require _ _

theorem counts_checkLength (n : Nat) : CountsFailures (checkLength n) :=
  counts_look_bind fun _ => counts_require _ _

theorem counts_getByte (reg : Byte) : CountsFailures (getByte reg) :=
  counts_bind (counts_checkReg reg) fun _ =>
    counts_bind (counts_transactRead reg 1) fun _ =>
      counts_bind (counts_update (shadowRead_dc_errcnt reg _)) fun _ => counts_pure _

theorem counts_setByte (reg val : Byte) : CountsFailures (setByte reg val) :=
  counts_bind (counts_checkReg reg) fun _ =>
    counts_bind (counts_transactWrite reg _) fun _ => counts_update (shadowWrite_dc_errcnt reg val)

theorem counts_getWord (reg : Byte) : CountsFailures (getWord reg) :=
  counts_bind (counts_checkWordReg reg) fun _ =>
    counts_bind (counts_transactRead reg 2) fun _ => counts_pure _

theorem counts_setWord (reg : Byte) (val : U16) : CountsFailures (setWord reg val) :=
  counts_bind (counts_checkWordReg reg) fun _ => counts_transactWrite reg _

theorem counts_getBuf (reg : Byte) (n : Nat) : CountsFailures (getBuf reg n) :=
  counts_bind (counts_checkReg reg) fun _ =>
    counts_bind (counts_checkLength n) fun _ => counts_transactRead reg n

theorem counts_setBuf (reg : Byte) (bytes : List Byte) : CountsFailures (setBuf reg bytes) :=
  counts_bind (counts_checkReg reg) fun _ =>
    counts_bind (counts_checkLength _) fun _ => counts_transactWrite reg bytes

theorem counts_getField (reg mask : Byte) : CountsFailures (getField reg mask) :=
  counts_bind (counts_getByte reg) fun _ => counts_pure _

theorem counts_setField (reg val mask : Byte) : CountsFailures (setField reg val mask) :=
  counts_bind (counts_checkReg reg) fun _ => counts_require_bind fun _ =>
    counts_bind (counts_getByte reg) fun _ =>
      counts_ite _ (counts_pure _) (counts_bind (counts_setByte reg _) fun _ => counts_pure _)

theorem counts_setFields (ws : List FieldWrite) : CountsFailures (setFields ws) := by
  induction ws with
  | nil => exact counts_pure ()
  | cons w ws ih => exact counts_bind (counts_setField w.reg w.val w.mask) fun _ => ih

/-! ### Operands (30_encoding.md R92, 20_memory.md R77) -/

theorem counts_checkRegNumber (r : Byte) : CountsFailures (checkRegNumber r) := counts_require _ _

theorem counts_flagOperand (v : Byte) : CountsFailures (flagOperand v) :=
  counts_require_bind fun _ => counts_pure _

theorem counts_bufferFetch (sel : Byte) (idx : U16) : CountsFailures (bufferFetch sel idx) := by
  unfold bufferFetch
  split
  · exact counts_raise (by decide) _
  · exact counts_look_bind fun _ => counts_require_bind fun _ => counts_look _

theorem counts_bufferStore (sel : Byte) (idx : U16) (v : U64) : CountsFailures (bufferStore sel idx v) := by
  unfold bufferStore
  split
  · exact counts_raise (by decide) _
  · exact counts_require_bind fun _ => counts_look_bind fun _ => counts_require_bind fun _ =>
      counts_update fun _ => rfl

/-! ### FIFO drain and frame parser (42_fifo_parser.md R151 to R156) -/

theorem counts_fifoClear : CountsFailures fifoClear :=
  counts_look_bind fun _ => counts_bind (counts_setField _ _ _) fun _ => counts_pure ()

theorem counts_resetAndAbort : CountsFailures resetAndAbort :=
  counts_then_update counts_fifoClear fun _ _ => rfl

theorem counts_drainChunks (fuel rem : Nat) : CountsFailures (drainChunks fuel rem) := by
  induction fuel generalizing rem with
  | zero => exact counts_pure true
  | succ fuel ih =>
    exact counts_ite _ (counts_pure true) (counts_look_bind fun _ => counts_ite _ (counts_pure false)
      (counts_bind (counts_getBuf _ _) fun _ => counts_bind (counts_update fun _ => rfl) fun _ => ih _))

theorem counts_drain : CountsFailures drain :=
  have abort : CountsFailures (do resetAndAbort; pure false) :=
    counts_bind counts_resetAndAbort fun _ => counts_pure false
  counts_look_bind fun _ => counts_bind (counts_getByte _) fun _ => counts_bind (counts_getByte _) fun _ =>
    counts_ite _ abort (counts_bind (counts_drainChunks _ _) fun _ =>
      counts_ite _ (counts_bind (counts_update fun _ => rfl) fun _ => counts_look _) abort)

theorem counts_checkFrameSize (n : U16) : CountsFailures (checkFrameSize n) :=
  counts_look_bind fun _ => counts_require _ _

theorem counts_deinterleave : CountsFailures deinterleave :=
  counts_look_bind fun _ => counts_bind (counts_checkFrameSize _) fun _ =>
    counts_look_bind fun _ => counts_require_bind fun _ => counts_update fun _ => rfl

theorem counts_parseMeta : CountsFailures parseMeta :=
  counts_look_bind fun _ => counts_require_bind fun _ => counts_update fun _ => rfl

/-! ### Kernels and flicker estimator (41_dsp_kernels.md R134 to R137, 43_flicker.md R165 to R172) -/

theorem counts_window : CountsFailures window :=
  counts_look_bind fun _ => counts_require_bind fun _ => counts_update fun _ => rfl

theorem counts_fft (n : U16) : CountsFailures (fft n) := by
  refine counts_look_bind fun _ => counts_ite _ (counts_pure ()) (counts_require_bind fun _ =>
    counts_look_bind fun _ => ?_)
  split
  · exact counts_update fun _ => rfl
  · exact counts_bind (counts_update fun _ => rfl) fun _ => counts_raise (by decide) _

theorem counts_magnitude (n : U16) : CountsFailures (magnitude n) := by
  refine counts_look_bind fun _ => counts_require_bind fun _ => counts_look_bind fun _ => ?_
  split
  · exact counts_update fun _ => rfl
  · exact counts_bind (counts_update fun _ => rfl) fun _ => counts_raise (by decide) _

theorem counts_frameAverages : CountsFailures frameAverages :=
  counts_look_bind fun _ => counts_bind (counts_checkFrameSize _) fun _ => counts_update fun _ => rfl

theorem counts_gainNormalise : CountsFailures gainNormalise :=
  counts_look_bind fun _ => counts_look_bind fun _ => counts_look_bind fun _ =>
    counts_require_bind fun _ => counts_require_bind fun _ => counts_update fun _ => rfl

theorem counts_adaptiveThreshold : CountsFailures adaptiveThreshold :=
  counts_look_bind fun _ => counts_ite _ (counts_raise (by decide) _)
    (counts_ite _ (counts_raise (by decide) _) (counts_update fun _ => rfl))

theorem counts_decideFrequency : CountsFailures decideFrequency :=
  counts_look_bind fun _ => counts_require_bind fun _ => counts_ite _
    (counts_ite _ (counts_raise (by decide) _) (counts_update fun _ => rfl)) (counts_update fun _ => rfl)

theorem counts_checkConversion (n : U16) (v : U64) : CountsFailures (checkConversion n v) :=
  counts_require_bind fun _ => counts_require _ _

theorem counts_analyseFrame (n : U16) : CountsFailures (analyseFrame n) :=
  counts_bind counts_deinterleave fun _ => counts_bind counts_parseMeta fun _ =>
    counts_bind counts_frameAverages fun _ => counts_bind counts_gainNormalise fun _ =>
      counts_bind counts_window fun _ => counts_bind (counts_fft n) fun _ =>
        counts_bind (counts_magnitude n) fun _ => counts_bind counts_adaptiveThreshold fun _ =>
          counts_bind (counts_update fun _ => rfl) fun _ => counts_decideFrequency

theorem counts_flickerCycle : CountsFailures flickerCycle :=
  counts_bind (counts_update fun _ => rfl) fun _ => counts_bind counts_drain fun _ => counts_ite _
    (counts_look_bind fun _ => counts_look_bind fun _ =>
      counts_bind (counts_onlyIf _ (counts_analyseFrame _)) fun _ => counts_bind counts_fifoClear fun _ =>
        counts_bind (counts_update fun _ => rfl) fun _ => counts_pure _)
    (counts_pure false)

/-! ### ALS (45_als.md R202 to R204) -/

theorem counts_alsCompute (clear wide : Nat) : CountsFailures (alsCompute clear wide) :=
  counts_look_bind fun _ =>
    counts_ite _ (counts_update (publishSample_dc_errcnt clear wide _)) (counts_raise (by decide) _)

theorem counts_alsSample : CountsFailures alsSample :=
  counts_look_bind fun _ => counts_bind (counts_getBuf _ _) fun _ => counts_bind (counts_getByte _) fun _ =>
    counts_require_bind fun _ => counts_alsCompute _ _

theorem counts_alsEquivalent : CountsFailures alsEquivalent :=
  counts_bind (counts_update fun _ => rfl) fun _ => counts_look_bind fun _ => counts_alsCompute _ _

/-! ### Event dispatcher (46_dispatch.md R216) -/

theorem counts_serveFlicker (st : Byte) : CountsFailures (serveFlicker st) :=
  counts_look_bind fun _ => counts_look_bind fun _ => counts_onlyIf _ <|
    counts_bind counts_flickerCycle fun _ => counts_onlyIf _ <|
      counts_then_update counts_alsEquivalent fun _ => raiseUpdate_dc_errcnt _

theorem counts_serveAls (st : Byte) : CountsFailures (serveAls st) :=
  counts_look_bind fun _ => counts_look_bind fun _ => counts_onlyIf _ counts_alsSample

theorem counts_writeBack (st : Byte) : CountsFailures (writeBack st) :=
  counts_look_bind fun _ => counts_onlyIf _ (counts_setByte _ st)

theorem counts_readStatus : CountsFailures readStatus := counts_look_bind fun _ => counts_getByte _

theorem counts_dispatchPass : CountsFailures dispatchPass :=
  counts_bind counts_readStatus fun st => counts_bind (counts_serveFlicker st) fun _ =>
    counts_bind (counts_serveAls st) fun _ => counts_bind (counts_writeBack st) fun _ => counts_readStatus

theorem counts_dispatchLoop (more : Nat) : CountsFailures (dispatchLoop more) := by
  induction more with
  | zero => exact counts_dispatchPass
  | succ more ih => exact counts_bind counts_dispatchPass fun _ => counts_ite _ (counts_pure 0) ih

/-- Entering and leaving the phase Dispatch counts nothing, whichever way the procedure ends. -/
theorem counts_inDispatch (hp : CountsFailures p) : CountsFailures (inDispatch p) := fun s => by
  have hs := (hp (setPhase .dispatch s)).of_errcnt_eq (setPhase_dc_errcnt .dispatch s)
  unfold inDispatch
  cases hps : p (setPhase .dispatch s) with
  | ok a t => rw [hps] at hs; exact hs
  | error e t => rw [hps] at hs; exact hs

theorem counts_dispatchCapped (n : Nat) : CountsFailures (dispatchCapped n) :=
  counts_bind (counts_inDispatch (counts_dispatchLoop (n - 1))) fun _ =>
    counts_ite _ (counts_update consumeUpdate_dc_errcnt) (counts_raise (by decide) _)

/-! ### Whole operations -/

theorem statusOf_eq_one_iff (code : FaultCode) : statusOf code = 1 ↔ code = .transportError := by
  cases code <;> decide

/-- If an operation from `s` answers a next state, the error counter rose by one exactly when the status there is
that of TransportError. -/
def FailureCounted (s : State) (o : Outcome) : Prop :=
  ∀ t, o = .next t → t.dc.errcnt = if t.dc.lastErr = 1 then s.dc.errcnt + 1 else s.dc.errcnt

theorem failureCounted_finish {s : State} {r : EStateM.Result Raised State Unit} (h : Accounted s r) :
    FailureCounted s (.next (finish r)) := by
  rintro _ ⟨⟩
  cases r with
  | ok a t => simpa [finish] using accounted_ok_iff.mp h
  | error e t =>
    have ht : t.dc.errcnt = s.dc.errcnt + if e.code = .transportError then 1 else 0 := h
    show t.dc.errcnt = if statusOf e.code = 1 then _ else _
    simp only [statusOf_eq_one_iff, ht]
    split
    · rfl
    · exact BitVec.add_zero _

theorem failureCounted_complete {p : Proc Unit} {s : State} (hp : CountsFailures p) :
    FailureCounted s (complete p s) :=
  failureCounted_finish (hp s)

/-- An operation that calls a procedure and then stores its results. -/
theorem failureCounted_result {p : Proc α} {f : α → State → State} {s : State} (hp : CountsFailures p)
    (hf : ∀ a u, (f a u).dc.errcnt = u.dc.errcnt) : FailureCounted s (complete (p >>= fun a => update (f a)) s) :=
  failureCounted_complete (counts_then_update hp hf)

/-- DISPATCH with either cap (46_dispatch.md R216): with the infinite one its three endings are the loop left at
status 0, the loop out of fuel, which is no next state, and a fault inside the loop. -/
theorem failureCounted_dispatch (s : State) : FailureCounted s (execDispatch s) := by
  unfold execDispatch
  split
  next n _ => exact failureCounted_complete (counts_dispatchCapped n)
  next fuel _ =>
    have hloop := counts_inDispatch (counts_dispatchLoop fuel) s
    split
    next st2 u hu =>
      rw [hu] at hloop
      have hconsumed : Accounted s (update consumeUpdate u) :=
        (counts_update consumeUpdate_dc_errcnt u).of_errcnt_eq (accounted_ok_iff.mp hloop)
      split
      · exact failureCounted_finish hconsumed
      · rintro _ ⟨⟩
    next e u hu =>
      rw [hu] at hloop
      exact failureCounted_finish (r := .error e u) hloop

/-- IDENT (40_register_access.md R119): its own fault is UnknownDevice. -/
theorem failureCounted_ident (s : State) : FailureCounted s (execIdent s) := by
  refine failureCounted_complete (counts_look_bind fun _ => counts_bind (counts_getByte _) fun _ =>
    counts_bind (counts_getByte _) fun _ => counts_bind (counts_update fun _ => rfl) fun _ => ?_)
  split
  · exact counts_update fun _ => rfl
  · exact counts_raise (by decide) _

/-- FEATEN (46_dispatch.md R217): a re-initialisation of either feature leaves the device context alone. -/
theorem failureCounted_featen (feat trig : Byte) (s : State) : FailureCounted s (execFeaten feat trig s) := by
  refine failureCounted_complete (counts_bind (counts_flagOperand feat) fun flk =>
    counts_bind (counts_flagOperand trig) fun _ => counts_look_bind fun _ => counts_require_bind fun _ =>
      counts_bind (counts_update fun _ => ?_) fun _ => counts_look_bind fun _ =>
        counts_then_update (counts_setFields _) fun _ => markEnabled_dc_errcnt _ _)
  cases flk <;> rfl

/-- Settles O13: every operation is a procedure that counts its failures, and DISPATCH ends as one. -/
theorem errorCounterCountsFailures : Obligations.ErrorCounterCountsFailures := by
  intro i s
  change FailureCounted s (exec i s)
  cases i with
  | nop => exact failureCounted_complete (counts_pure ())
  | xli d imm => exact failureCounted_result (counts_checkRegNumber d) fun _ _ => rfl
  | xlih d imm =>
    exact failureCounted_complete (counts_bind (counts_checkRegNumber d) fun _ =>
      counts_then_update (counts_look _) fun _ _ => rfl)
  | xmov d src =>
    exact failureCounted_complete (counts_bind (counts_checkRegNumber d) fun _ =>
      counts_bind (counts_checkRegNumber src) fun _ => counts_then_update (counts_look _) fun _ _ => rfl)
  | brd sel idx => exact failureCounted_result (counts_bufferFetch sel idx) fun _ _ => rfl
  | bwr sel idx => exact failureCounted_complete (counts_look_bind fun v => counts_bufferStore sel idx v)
  | getb reg => exact failureCounted_result (counts_getByte reg) fun _ _ => rfl
  | setb reg val => exact failureCounted_complete (counts_setByte reg val)
  | getw reg => exact failureCounted_result (counts_getWord reg) fun _ _ => rfl
  | setw reg val => exact failureCounted_complete (counts_setWord reg val)
  | getbuf reg len => exact failureCounted_result (counts_getBuf reg _) fun _ _ => rfl
  | setbuf reg len => exact failureCounted_complete (counts_look_bind fun bytes => counts_setBuf reg bytes)
  | getf reg mask => exact failureCounted_result (counts_getField reg mask) fun _ _ => rfl
  | setf reg val mask => exact failureCounted_result (counts_setField reg val mask) fun _ _ => rfl
  | ident => exact failureCounted_ident s
  | isqrt => exact failureCounted_result (counts_look _) fun _ _ => rfl
  | wingen => exact failureCounted_complete (counts_update fun _ => rfl)
  | window => exact failureCounted_result counts_window fun _ _ => rfl
  | fft n => exact failureCounted_complete (counts_fft n)
  | mag n => exact failureCounted_complete (counts_magnitude n)
  | drain => exact failureCounted_result counts_drain fun _ _ => rfl
  | deint => exact failureCounted_complete counts_deinterleave
  | pmeta => exact failureCounted_complete counts_parseMeta
  | fifoclr => exact failureCounted_complete counts_fifoClear
  | favg => exact failureCounted_result counts_frameAverages fun _ _ => rfl
  | gnorm => exact failureCounted_result counts_gainNormalise fun _ _ => rfl
  | thresh => exact failureCounted_result counts_adaptiveThreshold fun _ _ => rfl
  | peak => exact failureCounted_result (counts_update fun _ => rfl) fun _ _ => rfl
  | fdecide => exact failureCounted_result counts_decideFrequency fun _ _ => rfl
  | b2mhz | mhz2b =>
    exact failureCounted_complete (counts_look_bind fun n => counts_look_bind fun v =>
      counts_bind (counts_checkConversion n v) fun _ => counts_then_update (counts_look _) fun _ _ => rfl)
  | flkest => exact failureCounted_result counts_flickerCycle fun _ _ => rfl
  | l2c | c2l =>
    exact failureCounted_complete (counts_look_bind fun _ => counts_require_bind fun _ => counts_update fun _ => rfl)
  | agcen on =>
    exact failureCounted_complete (counts_bind (counts_flagOperand on) fun _ => counts_look_bind fun _ =>
      counts_bind (counts_setField _ _ _) fun _ => counts_then_update (counts_setField _ _ _) fun _ _ => rfl)
  | agcsat on | agcpred on =>
    exact failureCounted_complete (counts_bind (counts_flagOperand on) fun _ => counts_look_bind fun _ =>
      counts_then_update (counts_setField _ _ _) fun _ _ => rfl)
  | agcwin size =>
    exact failureCounted_complete (counts_look_bind fun _ => counts_require_bind fun _ =>
      counts_then_update (counts_setField _ _ _) fun _ _ => rfl)
  | agcmaxg ch code =>
    exact failureCounted_complete (counts_bind (counts_flagOperand ch) fun _ => counts_require_bind fun _ =>
      counts_look_bind fun _ => counts_require_bind fun _ =>
        counts_then_update (counts_setField _ _ _) fun _ _ => rfl)
  | alssmp => exact failureCounted_result counts_alsSample fun _ _ => rfl
  | alscalc =>
    exact failureCounted_complete (counts_look_bind fun _ => counts_look_bind fun _ => counts_require_bind fun _ =>
      counts_then_update (counts_alsCompute _ _) fun _ _ => rfl)
  | alseq => exact failureCounted_result counts_alsEquivalent fun _ _ => rfl
  | dispatch => exact failureCounted_dispatch s
  | featen feat trig => exact failureCounted_featen feat trig s
  | featdis feat =>
    exact failureCounted_complete (counts_bind (counts_flagOperand feat) fun _ => counts_look_bind fun _ =>
      counts_then_update (counts_setFields _) fun _ _ => rfl)
  | setthr thr =>
    exact failureCounted_complete (counts_look_bind fun _ => counts_require_bind fun _ =>
      counts_then_update (counts_setFields _) fun _ _ => rfl)
  | getals | getflk => exact failureCounted_complete (counts_update fun _ => rfl)

end Sys2Proof.Machine
end

section
/-! The command words (30_encoding.md R90 to R94). Every assigned opcode has a form: one of the six formats with the
operation its fields make. `decode`, `encode` and the opcode table are each tied to one table of forms, so that
they are compared format by format and not operation by operation. -/

namespace Sys2Proof

/-! ### The fields of a packed word (R90) -/

section
variable (op a b c : Byte) (imm : U16)

@[simp] theorem fieldOp_packImm : fieldOp (packImm op a imm) = op :=
  (BitVec.extractLsb'_append_eq_of_le (by decide)).trans BitVec.extractLsb'_append_eq_left

@[simp] theorem fieldA_packImm : fieldA (packImm op a imm) = a :=
  (BitVec.extractLsb'_append_eq_of_le (by decide)).trans BitVec.extractLsb'_append_eq_right

@[simp] theorem fieldImm_packImm : fieldImm (packImm op a imm) = imm := BitVec.extractLsb'_append_eq_right

/-- The overlay `imm16` is the fields b and c. -/
theorem pack_eq_packImm : pack op a b c = packImm op a (b ++ c) := BitVec.append_assoc

@[simp] theorem fieldOp_pack : fieldOp (pack op a b c) = op := by rw [pack_eq_packImm, fieldOp_packImm]
@[simp] theorem fieldA_pack : fieldA (pack op a b c) = a := by rw [pack_eq_packImm, fieldA_packImm]
@[simp] theorem fieldImm_pack : fieldImm (pack op a b c) = b ++ c := by rw [pack_eq_packImm, fieldImm_packImm]

@[simp] theorem fieldB_pack : fieldB (pack op a b c) = b :=
  (BitVec.extractLsb'_append_eq_of_le (by decide)).trans BitVec.extractLsb'_append_eq_right

@[simp] theorem fieldC_pack : fieldC (pack op a b c) = c := BitVec.extractLsb'_append_eq_right

end

/-- A word is its opcode, field a and imm16. -/
theorem packImm_fields (w : U32) : packImm (fieldOp w) (fieldA w) (fieldImm w) = w := by
  have high : fieldOp w ++ fieldA w = w.extractLsb' 16 16 := BitVec.extractLsb'_append_extractLsb'_eq_extractLsb' rfl
  unfold packImm
  rw [high]
  exact BitVec.extractLsb'_append_extractLsb'

theorem fieldB_append_fieldC (w : U32) : fieldB w ++ fieldC w = fieldImm w :=
  BitVec.extractLsb'_append_extractLsb'_eq_extractLsb' rfl

/-- A word is its four fields. -/
theorem pack_fields (w : U32) : pack (fieldOp w) (fieldA w) (fieldB w) (fieldC w) = w := by
  rw [pack_eq_packImm, fieldB_append_fieldC, packImm_fields]

theorem packImm_inj {op a op' a' : Byte} {imm imm' : U16} :
    packImm op a imm = packImm op' a' imm' ↔ op = op' ∧ a = a' ∧ imm = imm' := by
  constructor
  · intro h
    exact ⟨by simpa using congrArg fieldOp h, by simpa using congrArg fieldA h, by simpa using congrArg fieldImm h⟩
  · rintro ⟨rfl, rfl, rfl⟩
    rfl

theorem pack_inj {op a b c op' a' b' c' : Byte} :
    pack op a b c = pack op' a' b' c' ↔ op = op' ∧ a = a' ∧ b = b' ∧ c = c' := by
  constructor
  · intro h
    exact ⟨by simpa using congrArg fieldOp h, by simpa using congrArg fieldA h, by simpa using congrArg fieldB h,
      by simpa using congrArg fieldC h⟩
  · rintro ⟨rfl, rfl, rfl, rfl⟩
    rfl

/-! ### The six formats (R91) -/

/-- A format of R91 with the operation its fields make. -/
inductive Form where
  | z (i : Instr)
  | a (f : Byte → Instr)
  | ab (f : Byte → Byte → Instr)
  | abc (f : Byte → Byte → Byte → Instr)
  | ai (f : Byte → U16 → Instr)
  | imm (f : U16 → Instr)

/-- Whether the fields the format does not use are 0 in the word. -/
def Form.unusedZero (w : U32) : Form → Bool
  | .z _ => fieldA w == 0 && fieldImm w == 0
  | .a _ => fieldImm w == 0
  | .ab _ => fieldC w == 0
  | .abc _ | .ai _ => true
  | .imm _ => fieldA w == 0

/-- The operation the fields of the word make. -/
def Form.operation (w : U32) : Form → Instr
  | .z i => i
  | .a f => f (fieldA w)
  | .ab f => f (fieldA w) (fieldB w)
  | .abc f => f (fieldA w) (fieldB w) (fieldC w)
  | .ai f => f (fieldA w) (fieldImm w)
  | .imm f => f (fieldImm w)

/-- The fields the format uses put back into a word, 0 in the others. -/
def Form.repack (op : Byte) (w : U32) : Form → U32
  | .z _ => pack op 0 0 0
  | .a _ => pack op (fieldA w) 0 0
  | .ab _ => pack op (fieldA w) (fieldB w) 0
  | .abc _ => pack op (fieldA w) (fieldB w) (fieldC w)
  | .ai _ => packImm op (fieldA w) (fieldImm w)
  | .imm _ => packImm op 0 (fieldImm w)

/-- The (match, mask) row of an opcode of this form. -/
def Form.row (op : Byte) : Form → U32 × U32
  | .z _ => (packImm op 0 0, packImm (.allOnes 8) (.allOnes 8) (.allOnes 16))
  | .a _ => (packImm op 0 0, packImm (.allOnes 8) 0 (.allOnes 16))
  | .ab _ => (pack op 0 0 0, pack (.allOnes 8) 0 0 (.allOnes 8))
  | .abc _ | .ai _ => (packImm op 0 0, packImm (.allOnes 8) 0 0)
  | .imm _ => (packImm op 0 0, packImm (.allOnes 8) (.allOnes 8) 0)

/-- No bit is lost in a word whose unused fields are 0. -/
theorem Form.repack_of_unusedZero {form : Form} {w : U32} (h : form.unusedZero w = true) :
    form.repack (fieldOp w) w = w := by
  have zeros (op a : Byte) : pack op a 0 0 = packImm op a 0 := pack_eq_packImm op a 0 0
  cases form with
  | z i =>
    obtain ⟨ha, himm⟩ : fieldA w = 0 ∧ fieldImm w = 0 := by simpa [unusedZero] using h
    calc pack (fieldOp w) 0 0 0 = packImm (fieldOp w) (fieldA w) (fieldImm w) := by rw [zeros, ha, himm]
      _ = w := packImm_fields w
  | a f =>
    have himm : fieldImm w = 0 := by simpa [unusedZero] using h
    calc pack (fieldOp w) (fieldA w) 0 0 = packImm (fieldOp w) (fieldA w) (fieldImm w) := by rw [zeros, himm]
      _ = w := packImm_fields w
  | ab f =>
    have hc : fieldC w = 0 := by simpa [unusedZero] using h
    calc pack (fieldOp w) (fieldA w) (fieldB w) 0 = pack (fieldOp w) (fieldA w) (fieldB w) (fieldC w) := by rw [hc]
      _ = w := pack_fields w
  | abc f => exact pack_fields w
  | ai f => exact packImm_fields w
  | imm f =>
    have ha : fieldA w = 0 := by simpa [unusedZero] using h
    calc packImm (fieldOp w) 0 (fieldImm w) = packImm (fieldOp w) (fieldA w) (fieldImm w) := by rw [ha]
      _ = w := packImm_fields w

theorem and_packImm_eq_iff {w : U32} {mop ma op a : Byte} {mimm imm : U16} :
    w &&& packImm mop ma mimm = packImm op a imm ↔
      fieldOp w &&& mop = op ∧ fieldA w &&& ma = a ∧ fieldImm w &&& mimm = imm := by
  rw [← packImm_inj, ← packImm_and, packImm_fields]

theorem and_pack_eq_iff {w : U32} {mop ma mb mc op a b c : Byte} :
    w &&& pack mop ma mb mc = pack op a b c ↔
      fieldOp w &&& mop = op ∧ fieldA w &&& ma = a ∧ fieldB w &&& mb = b ∧ fieldC w &&& mc = c := by
  rw [← pack_inj, ← pack_and, pack_fields]

/-- A word matches the row of an opcode when it has that opcode and its unused fields are 0. -/
theorem Form.matches_row_iff {form : Form} {op : Byte} {w : U32} :
    w &&& (form.row op).2 = (form.row op).1 ↔ fieldOp w = op ∧ form.unusedZero w = true := by
  have zero {n : Nat} (v : BitVec n) : v &&& 0 = 0 := BitVec.and_zero
  cases form <;>
    simp only [row, unusedZero, and_packImm_eq_iff, and_pack_eq_iff, BitVec.and_allOnes, zero,
      Bool.and_eq_true, beq_iff_eq, and_true, true_and]

/-! ### The table of forms (R93) -/

/-- The form of an opcode, if it is assigned. -/
def formOf : Nat → Option Form
  | 0x00 => some (.z .nop)
  | 0x01 => some (.ai .xli)
  | 0x02 => some (.ai .xlih)
  | 0x03 => some (.ab .xmov)
  | 0x04 => some (.ai .brd)
  | 0x05 => some (.ai .bwr)
  | 0x10 => some (.a .getb)
  | 0x11 => some (.ab .setb)
  | 0x12 => some (.a .getw)
  | 0x13 => some (.ai .setw)
  | 0x14 => some (.ab .getbuf)
  | 0x15 => some (.ab .setbuf)
  | 0x16 => some (.ab .getf)
  | 0x17 => some (.abc .setf)
  | 0x18 => some (.z .ident)
  | 0x20 => some (.z .isqrt)
  | 0x21 => some (.z .wingen)
  | 0x22 => some (.z .window)
  | 0x23 => some (.imm .fft)
  | 0x24 => some (.imm .mag)
  | 0x30 => some (.z .drain)
  | 0x31 => some (.z .deint)
  | 0x32 => some (.z .pmeta)
  | 0x33 => some (.z .fifoclr)
  | 0x40 => some (.z .favg)
  | 0x41 => some (.z .gnorm)
  | 0x42 => some (.z .thresh)
  | 0x43 => some (.z .peak)
  | 0x44 => some (.z .fdecide)
  | 0x45 => some (.z .b2mhz)
  | 0x46 => some (.z .mhz2b)
  | 0x47 => some (.z .flkest)
  | 0x50 => some (.z .l2c)
  | 0x51 => some (.z .c2l)
  | 0x52 => some (.a .agcen)
  | 0x53 => some (.a .agcsat)
  | 0x54 => some (.a .agcpred)
  | 0x55 => some (.a .agcwin)
  | 0x56 => some (.ab .agcmaxg)
  | 0x60 => some (.z .alssmp)
  | 0x61 => some (.z .alscalc)
  | 0x62 => some (.z .alseq)
  | 0x70 => some (.z .dispatch)
  | 0x71 => some (.ab .featen)
  | 0x72 => some (.a .featdis)
  | 0x73 => some (.imm .setthr)
  | 0x74 => some (.z .getals)
  | 0x75 => some (.z .getflk)
  | _ => none

/-- `decode` looks up the form of the opcode and reads the fields by its format. The opcodes left over by both
tables (case 49) are apart: a look-up there has to rule out each row. -/
theorem decode_eq (w : U32) : decode w = (formOf (fieldOp w).toNat).elim (.error (.unassignedOpcode (fieldOp w)))
    fun form => whenUnusedZero w (form.unusedZero w) (form.operation w) := by
  unfold decode formOf
  generalize (fieldOp w).toNat = k
  split
  case h_49 => simp only [*, Option.elim]
  all_goals rfl

/-- `encode` puts the fields an operation was read from back into a word. -/
theorem encode_operation {k : Nat} {form : Form} (h : formOf k = some form) (w : U32) :
    encode (form.operation w) = form.repack (BitVec.ofNat 8 k) w := by
  unfold formOf at h
  split at h <;> cases h <;> rfl

/-- The rows of the opcode table are those of the assigned opcodes. -/
theorem opcodeRows_eq :
    opcodeRows = (List.range 256).filterMap fun k => (formOf k).map (Form.row (BitVec.ofNat 8 k)) := by
  decide

theorem whenUnusedZero_eq_ok_iff {w : U32} {unusedZero : Bool} {i j : Instr} :
    whenUnusedZero w unusedZero i = .ok j ↔ unusedZero = true ∧ i = j := by
  cases unusedZero <;> simp [whenUnusedZero]

/-- A word decodes when its opcode is assigned and the fields its format does not use are 0. -/
theorem decode_eq_ok_iff {w : U32} {i : Instr} : decode w = .ok i ↔
    ∃ form, formOf (fieldOp w).toNat = some form ∧ form.unusedZero w = true ∧ form.operation w = i := by
  rw [decode_eq]
  cases formOf (fieldOp w).toNat with
  | none => simp
  | some form => simp [whenUnusedZero_eq_ok_iff]

theorem mem_opcodeRows_iff {row : U32 × U32} :
    row ∈ opcodeRows ↔ ∃ (op : Byte) (form : Form), formOf op.toNat = some form ∧ form.row op = row := by
  simp only [opcodeRows_eq, List.mem_filterMap, List.mem_range, Option.map_eq_some_iff]
  constructor
  · rintro ⟨k, hk, form, hform, hrow⟩
    exact ⟨BitVec.ofNat 8 k, form, by rwa [BitVec.toNat_ofNat, Nat.mod_eq_of_lt hk], hrow⟩
  · rintro ⟨op, form, hform, hrow⟩
    exact ⟨op.toNat, op.isLt, form, hform, by rwa [BitVec.ofNat_toNat, BitVec.setWidth_eq]⟩

/-! ### The written words, format by format -/

section
variable {op : Byte} (a b c : Byte) (imm : U16)

theorem decode_of_form_z {i : Instr} (h : formOf op.toNat = some (.z i)) : decode (pack op 0 0 0) = .ok i :=
  decode_eq_ok_iff.mpr ⟨.z i, by simpa using h, by simp [Form.unusedZero], rfl⟩

theorem decode_of_form_a {f : Byte → Instr} (h : formOf op.toNat = some (.a f)) :
    decode (pack op a 0 0) = .ok (f a) :=
  decode_eq_ok_iff.mpr ⟨.a f, by simpa using h, by simp [Form.unusedZero], by simp [Form.operation]⟩

theorem decode_of_form_ab {f : Byte → Byte → Instr} (h : formOf op.toNat = some (.ab f)) :
    decode (pack op a b 0) = .ok (f a b) :=
  decode_eq_ok_iff.mpr ⟨.ab f, by simpa using h, by simp [Form.unusedZero], by simp [Form.operation]⟩

theorem decode_of_form_abc {f : Byte → Byte → Byte → Instr} (h : formOf op.toNat = some (.abc f)) :
    decode (pack op a b c) = .ok (f a b c) :=
  decode_eq_ok_iff.mpr ⟨.abc f, by simpa using h, rfl, by simp [Form.operation]⟩

theorem decode_of_form_ai {f : Byte → U16 → Instr} (h : formOf op.toNat = some (.ai f)) :
    decode (packImm op a imm) = .ok (f a imm) :=
  decode_eq_ok_iff.mpr ⟨.ai f, by simpa using h, rfl, by simp [Form.operation]⟩

theorem decode_of_form_imm {f : U16 → Instr} (h : formOf op.toNat = some (.imm f)) :
    decode (packImm op 0 imm) = .ok (f imm) :=
  decode_eq_ok_iff.mpr ⟨.imm f, by simpa using h, by simp [Form.unusedZero], by simp [Form.operation]⟩

end

/-- Settles O1: an operation is written in the form of its opcode, and that form reads it back. -/
theorem decodeOfEncode : Obligations.DecodeOfEncode := by
  intro i
  cases i with
  | nop | ident | isqrt | wingen | window | drain | deint | pmeta | fifoclr | favg | gnorm | thresh | peak | fdecide
  | b2mhz | mhz2b | flkest | l2c | c2l | alssmp | alscalc | alseq | dispatch | getals | getflk =>
    exact decode_of_form_z rfl
  | getb a | getw a | agcen a | agcsat a | agcpred a | agcwin a | featdis a => exact decode_of_form_a a rfl
  | xmov a b | setb a b | getbuf a b | setbuf a b | getf a b | agcmaxg a b | featen a b =>
    exact decode_of_form_ab a b rfl
  | setf a b c => exact decode_of_form_abc a b c rfl
  | xli a imm | xlih a imm | brd a imm | bwr a imm | setw a imm => exact decode_of_form_ai a imm rfl
  | fft imm | mag imm | setthr imm => exact decode_of_form_imm imm rfl

/-- Settles O2: what was read from a legal word is written back into every field of it. -/
theorem encodeOfDecode : Obligations.EncodeOfDecode := by
  intro w i h
  obtain ⟨form, hform, hzero, rfl⟩ := decode_eq_ok_iff.mp h
  calc encode (form.operation w)
      = form.repack (BitVec.ofNat 8 (fieldOp w).toNat) w := encode_operation hform w
    _ = form.repack (fieldOp w) w := by rw [BitVec.ofNat_toNat, BitVec.setWidth_eq]
    _ = w := Form.repack_of_unusedZero hzero

/-- Settles O3: decoding and the table ask the same of a word, an assigned opcode and unused fields of 0. -/
theorem legalWordsMatchTable : Obligations.LegalWordsMatchTable := by
  intro w
  constructor
  · rintro ⟨i, h⟩
    obtain ⟨form, hform, hzero, -⟩ := decode_eq_ok_iff.mp h
    exact ⟨form.row (fieldOp w), mem_opcodeRows_iff.mpr ⟨_, form, hform, rfl⟩, Form.matches_row_iff.mpr ⟨rfl, hzero⟩⟩
  · rintro ⟨row, hmem, hmatch⟩
    obtain ⟨op, form, hform, rfl⟩ := mem_opcodeRows_iff.mp hmem
    obtain ⟨rfl, hzero⟩ := Form.matches_row_iff.mp hmatch
    exact ⟨form.operation w, decode_eq_ok_iff.mpr ⟨form, hform, hzero, rfl⟩⟩

/-- Settles O4: each word is the written form of the operation printed beside it. -/
theorem printedWordsDecode : Obligations.PrintedWordsDecode :=
  ⟨decodeOfEncode (.xli 1 0x4000), decodeOfEncode (.xmov 1 0), decodeOfEncode (.brd 4 10), decodeOfEncode (.bwr 2 3),
    decodeOfEncode (.getb 19), decodeOfEncode (.setw 4 0x0200), decodeOfEncode (.getbuf 10 4),
    decodeOfEncode (.getf 9 0xF0), decodeOfEncode (.setf 16 2 2), decodeOfEncode .fifoclr,
    decodeOfEncode (.agcmaxg 1 9), decodeOfEncode (.featen 1 0), decodeOfEncode (.setthr 516)⟩

end Sys2Proof
end

section
/-! Operand registers: the commands of LI64 (30_encoding.md R97), and that an operation that raises has written none
(R99). -/

namespace Sys2Proof.Machine

/-! ### LI64 (R97, 47_host_ops.md R236, R237) -/

section
variable {s : State} {d : Byte} (imm : U16)

theorem checkRegNumber_ok (hd : d.toNat < 8) : checkRegNumber d s = .ok () s :=
  require_ok (decide_eq_true hd) _ _

theorem exec_xli_of_lt (hd : d.toNat < 8) :
    exec (.xli d imm) s = .next (completed (setX d.toNat (imm.setWidth 64) s)) :=
  complete_ok (bind_of_ok (checkRegNumber_ok hd) _)

theorem exec_xlih_of_lt (hd : d.toNat < 8) :
    exec (.xlih d imm) s = .next (completed (setX d.toNat (shiftIn (getX s d.toNat) imm) s)) :=
  complete_ok (bind_of_ok (checkRegNumber_ok hd) _)

end

@[simp] theorem completed_x (s : State) : (completed s).x = s.x := rfl

/-- The bits of `v` from `k` up, from those 16 higher and the 16 between. -/
theorem shiftIn_extractLsb' (v : U64) (k : Nat) : shiftIn (v >>> (k + 16)) (v.extractLsb' k 16) = v >>> k := by
  rw [shiftIn_eq]
  apply BitVec.eq_of_toNat_eq
  have hlt := (v >>> k).isLt
  have hv := Nat.div_add_mod' (v.toNat >>> k) 65536
  simp only [BitVec.toNat_ofNat, BitVec.toNat_ushiftRight, BitVec.extractLsb'_toNat, Nat.shiftRight_add] at hlt ⊢
  rw [Nat.shiftRight_eq_div_pow _ 16, hv, Nat.mod_eq_of_lt hlt]

/-- XLIH on a register that holds the bits of `v` from `k + 16` up leaves those from `k` up in it. -/
theorem exec_xlih_of_high {s t : State} {d : Byte} (hd : d.toNat < 8) (v : U64) (k : Nat)
    (ht : t.x = s.x.setIfInBounds d.toNat (v >>> (k + 16))) :
    ∃ u, exec (.xlih d (v.extractLsb' k 16)) t = .next u ∧ u.x = s.x.setIfInBounds d.toNat (v >>> k) := by
  refine ⟨_, exec_xlih_of_lt _ hd, ?_⟩
  have hget : getX t d.toNat = v >>> (k + 16) := by simp [getX, ht, Vector.getD, hd]
  rw [completed_x, setX_x, hget, shiftIn_extractLsb', ht]
  exact Vector.setIfInBounds_setIfInBounds _

/-- XLI with the top 16 bits is a shift into a register of which no bit of `v` is left. -/
theorem setWidth_top_eq (v : U64) : (v.extractLsb' 48 16).setWidth 64 = v >>> 48 := by
  have hnone : v >>> (48 + 16) = 0 := BitVec.ushiftRight_eq_zero (Nat.le_refl 64)
  rw [← shiftIn_extractLsb' v 48, hnone]
  exact (BitVec.zero_or).symm

/-- Settles O20: XLI leaves the top 16 bits in the register, and each XLIH 16 more. -/
theorem loadImmediate64 : Obligations.LoadImmediate64 := by
  intro s d v hd
  have h1 := exec_xli_of_lt (s := s) (v.extractLsb' 48 16) hd
  rw [setWidth_top_eq] at h1
  have hx1 : (completed (setX d.toNat (v >>> (32 + 16)) s)).x = s.x.setIfInBounds d.toNat (v >>> (32 + 16)) := rfl
  obtain ⟨t2, h2, hx2⟩ := exec_xlih_of_high hd v 32 hx1
  obtain ⟨t3, h3, hx3⟩ := exec_xlih_of_high hd v 16 hx2
  obtain ⟨t4, h4, hx4⟩ := exec_xlih_of_high hd v 0 hx3
  exact ⟨_, t2, t3, t4, h1, h2, h3, h4, hx4⟩

/-! ### Faults (R99) -/

section
variable {α β : Type} {p : Proc α} {k : α → Proc β}

/-- Whenever the procedure raises, it has written no operand register. -/
def RaisesFirst (p : Proc α) : Prop := ∀ s e t, p s = .error e t → t.x = s.x

theorem raisesFirst_of_quiet (hp : Keeps Quiet p) : RaisesFirst p := fun s e t h => by
  simpa [h] using (hp s).x

/-- Results are written last: an update never raises. -/
theorem raisesFirst_update (f : State → State) : RaisesFirst (update f) := fun s e t h => by
  simp at h

theorem raisesFirst_bind (hp : Keeps Quiet p) (hk : ∀ a, RaisesFirst (k a)) : RaisesFirst (p >>= k) := by
  intro s e t h
  have hs := hp s
  rcases bind_eq_error.mp h with he | ⟨a, u, ha, he⟩
  · rw [he] at hs
    exact hs.x
  · rw [ha] at hs
    exact (hk a u e t he).trans hs.x

theorem raisesFirst_look_bind {f : State → α} (hk : ∀ a, RaisesFirst (k a)) : RaisesFirst (look f >>= k) :=
  raisesFirst_bind (quiet_look f) hk

theorem raisesFirst_require_bind {ok : Bool} {info : U16} {k : Unit → Proc β} (hk : ∀ a, RaisesFirst (k a)) :
    RaisesFirst (require ok info >>= k) :=
  raisesFirst_bind (quiet_require ok info) hk

theorem raisesFirst_result (hp : Keeps Quiet p) (f : α → State → State) :
    RaisesFirst (p >>= fun a => update (f a)) :=
  raisesFirst_bind hp fun a => raisesFirst_update (f a)

/-- An operation from `s` that answers a next state with a fault status has written no operand register. -/
def FaultKeepsX (s : State) (o : Outcome) : Prop := ∀ t, o = .next t → t.dc.lastErr ≠ 0 → t.x = s.x

theorem faultKeepsX_finish {s : State} {r : EStateM.Result Raised State Unit}
    (h : ∀ e u, r = .error e u → u.x = s.x) : FaultKeepsX s (.next (finish r)) := by
  rintro _ ⟨⟩ hfault
  cases r with
  | ok a u => exact absurd rfl hfault
  | error e u => exact h e u rfl

theorem faultKeepsX_complete {p : Proc Unit} (hp : RaisesFirst p) (s : State) : FaultKeepsX s (complete p s) :=
  faultKeepsX_finish (hp s)

/-- An operation that computes quietly and then writes its results. -/
theorem faultKeepsX_result (hp : Keeps Quiet p) (f : α → State → State) (s : State) :
    FaultKeepsX s (complete (p >>= fun a => update (f a)) s) :=
  faultKeepsX_complete (raisesFirst_result hp f) s

/-- An operation that other operations call. -/
theorem faultKeepsX_procedure {i : Instr} {out : α → State → Vector U64 8} (h : IsProcedure i p out) (s : State) :
    FaultKeepsX s (exec i s) := by
  obtain ⟨hquiet, hexec⟩ := h
  rw [hexec]
  exact faultKeepsX_result hquiet _ s

/-! ### More quiet procedures -/

theorem quiet_flagOperand (v : Byte) : Keeps Quiet (flagOperand v) :=
  quiet_bind (quiet_require _ _) fun _ => quiet_pure _

theorem quiet_setField (reg val mask : Byte) : Keeps Quiet (setField reg val mask) :=
  keeps_setField quiet_bus reg val mask

theorem quiet_setFields (ws : List FieldWrite) : Keeps Quiet (setFields ws) := keeps_setFields quiet_bus ws

theorem quiet_bufferFetch (sel : Byte) (idx : U16) : Keeps Quiet (bufferFetch sel idx) := by
  unfold bufferFetch
  split
  · exact quiet_raise _ _
  · exact quiet_bind (quiet_look _) fun _ => quiet_bind (quiet_require _ _) fun _ => quiet_look _

theorem quiet_bufferStore (sel : Byte) (idx : U16) (v : U64) : Keeps Quiet (bufferStore sel idx v) := by
  unfold bufferStore
  split
  · exact quiet_raise _ _
  · exact quiet_bind (quiet_require _ _) fun _ => quiet_bind (quiet_look _) fun _ =>
      quiet_bind (quiet_require _ _) fun _ => keeps_update fun _ => ⟨rfl, rfl, rfl, rfl, rfl⟩

theorem quiet_serveFlicker (st : Byte) : Keeps Quiet (serveFlicker st) :=
  quiet_bind (quiet_look _) fun _ => quiet_bind (quiet_look _) fun _ => keeps_onlyIf Quiet.refl _ <|
    quiet_bind isProcedure_flkest.1 fun _ => keeps_onlyIf Quiet.refl _ <|
      quiet_bind isProcedure_alseq.1 fun _ => keeps_update fun _ => ⟨rfl, rfl, rfl, rfl, rfl⟩

theorem quiet_serveAls (st : Byte) : Keeps Quiet (serveAls st) :=
  quiet_bind (quiet_look _) fun _ => quiet_bind (quiet_look _) fun _ =>
    keeps_onlyIf Quiet.refl _ isProcedure_alssmp.1

theorem quiet_writeBack (st : Byte) : Keeps Quiet (writeBack st) :=
  quiet_bind (quiet_look _) fun _ => keeps_onlyIf Quiet.refl _ (keeps_setByte quiet_bus _ st)

theorem quiet_readStatus : Keeps Quiet readStatus := quiet_bind (quiet_look _) fun _ => keeps_getByte quiet_bus _

theorem quiet_dispatchPass : Keeps Quiet dispatchPass :=
  quiet_bind quiet_readStatus fun st => quiet_bind (quiet_serveFlicker st) fun _ =>
    quiet_bind (quiet_serveAls st) fun _ => quiet_bind (quiet_writeBack st) fun _ => quiet_readStatus

theorem quiet_dispatchLoop (more : Nat) : Keeps Quiet (dispatchLoop more) := by
  induction more with
  | zero => exact quiet_dispatchPass
  | succ more ih => exact quiet_bind quiet_dispatchPass fun _ => keeps_ite _ (quiet_pure 0) ih

/-- Entering and leaving the phase Dispatch is quiet, whichever way the procedure ends. -/
theorem quiet_inDispatch (hp : Keeps Quiet p) : Keeps Quiet (inDispatch p) := fun s => by
  have hs := hp (setPhase .dispatch s)
  have henter : Quiet s (setPhase .dispatch s) := ⟨rfl, rfl, rfl, rfl, rfl⟩
  have hleave (t : State) : Quiet t (setPhase .idle t) := ⟨rfl, rfl, rfl, rfl, rfl⟩
  unfold inDispatch
  cases hps : p (setPhase .dispatch s) with
  | ok a t | error e t =>
    rw [hps] at hs
    exact (henter.trans _ _ _ hs).trans _ _ _ (hleave t)

theorem raisesFirst_dispatchCapped (n : Nat) : RaisesFirst (dispatchCapped n) := by
  refine raisesFirst_bind (quiet_inDispatch (quiet_dispatchLoop (n - 1))) fun st2 => ?_
  split
  · exact raisesFirst_update consumeUpdate
  · exact raisesFirst_of_quiet (quiet_raise _ _)

/-- DISPATCH (46_dispatch.md R216): `x[0]` is written after the loop has read status 0. -/
theorem faultKeepsX_dispatch (s : State) : FaultKeepsX s (execDispatch s) := by
  unfold execDispatch
  split
  next n _ => exact faultKeepsX_complete (raisesFirst_dispatchCapped n) s
  next fuel _ =>
    have hloop := raisesFirst_of_quiet (quiet_inDispatch (quiet_dispatchLoop fuel)) s
    split
    next st2 u _ =>
      split
      · exact faultKeepsX_finish fun e v h => by simp at h
      · rintro _ ⟨⟩
    next e u hu =>
      refine faultKeepsX_finish ?_
      rintro _ _ ⟨⟩
      exact hloop e u hu

/-- IDENT (40_register_access.md R119): `x[0]` is written on a match only, where nothing is raised. -/
theorem faultKeepsX_ident (s : State) : FaultKeepsX s (execIdent s) := by
  refine faultKeepsX_complete (raisesFirst_look_bind fun _ =>
    raisesFirst_bind (keeps_getByte quiet_bus _) fun _ => raisesFirst_bind (keeps_getByte quiet_bus _) fun _ =>
      raisesFirst_bind (keeps_update ?variant) fun _ => ?result) s
  case variant => exact fun _ => ⟨rfl, rfl, rfl, rfl, rfl⟩
  case result =>
    split
    · exact raisesFirst_update _
    · exact raisesFirst_of_quiet (quiet_raise _ _)

/-- FEATEN (46_dispatch.md R217) writes no operand register at all. -/
theorem faultKeepsX_featen (feat trig : Byte) (s : State) : FaultKeepsX s (execFeaten feat trig s) := by
  refine faultKeepsX_complete (raisesFirst_bind (quiet_flagOperand feat) fun flk =>
    raisesFirst_bind (quiet_flagOperand trig) fun _ => raisesFirst_look_bind fun _ =>
      raisesFirst_require_bind fun _ => raisesFirst_bind (keeps_update fun _ => ?_) fun _ =>
        raisesFirst_look_bind fun _ => raisesFirst_result (quiet_setFields _) _) s
  cases flk <;> exact ⟨rfl, rfl, rfl, rfl, rfl⟩

end

/-- Settles O12: every operation does what can raise first, with the operand registers as they were, and writes
its results last. -/
theorem faultWritesNoOperandRegister : Obligations.FaultWritesNoOperandRegister := by
  intro i s
  change FaultKeepsX s (exec i s)
  cases i with
  | nop => exact faultKeepsX_complete (raisesFirst_of_quiet (quiet_pure ())) s
  | xli d imm => exact faultKeepsX_result (quiet_require _ _) _ s
  | xlih d imm =>
    exact faultKeepsX_complete (raisesFirst_require_bind fun _ =>
      raisesFirst_look_bind fun _ => raisesFirst_update _) s
  | xmov d src =>
    exact faultKeepsX_complete (raisesFirst_require_bind fun _ =>
      raisesFirst_require_bind fun _ => raisesFirst_look_bind fun _ => raisesFirst_update _) s
  | brd sel idx => exact faultKeepsX_result (quiet_bufferFetch sel idx) _ s
  | bwr sel idx =>
    exact faultKeepsX_complete (raisesFirst_of_quiet
      (quiet_bind (quiet_look _) fun _ => quiet_bufferStore sel idx _)) s
  | getb reg => exact faultKeepsX_procedure (isProcedure_getb reg) s
  | setb reg val => exact faultKeepsX_procedure (isProcedure_setb reg val) s
  | getw reg => exact faultKeepsX_result (keeps_getWord quiet_bus reg) _ s
  | setw reg val => exact faultKeepsX_complete (raisesFirst_of_quiet (keeps_setWord quiet_bus reg val)) s
  | getbuf reg len => exact faultKeepsX_result (keeps_getBuf quiet_bus reg _) _ s
  | setbuf reg len =>
    exact faultKeepsX_complete (raisesFirst_of_quiet
      (quiet_bind (quiet_look _) fun _ => keeps_setBuf quiet_bus reg _)) s
  | getf reg mask => exact faultKeepsX_result (keeps_getField quiet_bus reg mask) _ s
  | setf reg val mask => exact faultKeepsX_result (quiet_setField reg val mask) _ s
  | ident => exact faultKeepsX_ident s
  | isqrt => exact faultKeepsX_result (quiet_look _) _ s
  | wingen => exact faultKeepsX_complete (raisesFirst_update _) s
  | window => exact faultKeepsX_procedure isProcedure_window s
  | fft n => exact faultKeepsX_procedure (isProcedure_fft n) s
  | mag n => exact faultKeepsX_procedure (isProcedure_mag n) s
  | drain => exact faultKeepsX_procedure isProcedure_drain s
  | deint => exact faultKeepsX_procedure isProcedure_deint s
  | pmeta => exact faultKeepsX_procedure isProcedure_pmeta s
  | fifoclr => exact faultKeepsX_procedure isProcedure_fifoclr s
  | favg => exact faultKeepsX_procedure isProcedure_favg s
  | gnorm => exact faultKeepsX_procedure isProcedure_gnorm s
  | thresh => exact faultKeepsX_procedure isProcedure_thresh s
  | peak => exact faultKeepsX_procedure isProcedure_peak s
  | fdecide => exact faultKeepsX_procedure isProcedure_fdecide s
  | b2mhz | mhz2b =>
    exact faultKeepsX_complete (raisesFirst_look_bind fun _ => raisesFirst_look_bind fun _ =>
      raisesFirst_bind (quiet_bind (quiet_require _ _) fun _ => quiet_require _ _) fun _ =>
        raisesFirst_look_bind fun _ => raisesFirst_update _) s
  | flkest => exact faultKeepsX_procedure isProcedure_flkest s
  | l2c | c2l =>
    exact faultKeepsX_complete (raisesFirst_look_bind fun _ =>
      raisesFirst_require_bind fun _ => raisesFirst_update _) s
  | agcen on =>
    exact faultKeepsX_complete (raisesFirst_bind (quiet_flagOperand on) fun _ =>
      raisesFirst_look_bind fun _ => raisesFirst_bind (quiet_setField _ _ _) fun _ =>
        raisesFirst_result (quiet_setField _ _ _) _) s
  | agcsat on | agcpred on =>
    exact faultKeepsX_complete (raisesFirst_bind (quiet_flagOperand on) fun _ =>
      raisesFirst_look_bind fun _ => raisesFirst_result (quiet_setField _ _ _) _) s
  | agcwin size =>
    exact faultKeepsX_complete (raisesFirst_look_bind fun _ => raisesFirst_require_bind fun _ =>
      raisesFirst_result (quiet_setField _ _ _) _) s
  | agcmaxg ch code =>
    exact faultKeepsX_complete (raisesFirst_bind (quiet_flagOperand ch) fun _ =>
      raisesFirst_require_bind fun _ => raisesFirst_look_bind fun _ =>
        raisesFirst_require_bind fun _ => raisesFirst_result (quiet_setField _ _ _) _) s
  | alssmp => exact faultKeepsX_procedure isProcedure_alssmp s
  | alscalc =>
    exact faultKeepsX_complete (raisesFirst_look_bind fun _ => raisesFirst_look_bind fun _ =>
      raisesFirst_require_bind fun _ => raisesFirst_result (quiet_alsCompute _ _) _) s
  | alseq => exact faultKeepsX_procedure isProcedure_alseq s
  | dispatch => exact faultKeepsX_dispatch s
  | featen feat trig => exact faultKeepsX_featen feat trig s
  | featdis feat =>
    exact faultKeepsX_complete (raisesFirst_bind (quiet_flagOperand feat) fun _ =>
      raisesFirst_look_bind fun _ => raisesFirst_result (quiet_setFields _) _) s
  | setthr thr =>
    exact faultKeepsX_complete (raisesFirst_look_bind fun _ => raisesFirst_require_bind fun _ =>
      raisesFirst_result (quiet_setFields _) _) s
  | getals | getflk => exact faultKeepsX_complete (raisesFirst_update _) s

end Sys2Proof.Machine
end

section
/-! Register access (40_register_access.md R110 to R121): each operation is one shared procedure, so its result, its
frame and its faults are those of the procedure. -/

namespace Sys2Proof.Machine

/-! ### Endings of an operation that runs a procedure and writes its result -/

section
variable {α : Type} {p : Proc α} {s t : State} {info : U16}

/-- An operation ends as its procedure does: only the run counts. -/
theorem complete_congr {p q : Proc Unit} (h : p s = q t) : complete p s = complete q t :=
  congrArg (fun r => Host.Outcome.next (finish r)) h

/-- An operation that raises PreconditionViolation has changed nothing but the bookkeeping. -/
theorem complete_refused {p : Proc Unit} (h : p s = .error ⟨.preconditionViolation, info⟩ s) :
    complete p s = .next (faulted 3 info s) :=
  complete_fault h

/-- An operation of which a transaction failed (R120). -/
theorem complete_transport {p : Proc Unit} (h : p s = .error ⟨.transportError, info⟩ t) :
    complete p s = .next (faulted 1 info t) :=
  complete_fault h

/-- The value a procedure returned, put in `x[0]`. -/
theorem complete_result {a : α} (h : p s = .ok a t) (f : α → U64) :
    complete (p >>= fun a => update (setX 0 (f a))) s = .next (completed { t with x := t.x.set 0 (f a) }) := by
  rw [← setX_zero]
  exact complete_ok (bind_of_ok h _)

end

/-! ### GETB, SETB, GETF (R111, R112, R117) -/

section
variable {s : State} {bus : Bus} {reg : Byte}

/-- A byte read in the statements' terms. -/
theorem getByte_noteRead {v : Byte} (hr : reg.toNat < regMax s.cfg) (hb : readOk s.cfg s.bus reg 1 [v] bus) :
    getByte reg s = .ok v { s with dc := noteRead s.cfg reg v s.dc, bus := bus } :=
  getByte_ok hr hb

theorem getField_fail (mask : Byte) (hr : reg.toNat < regMax s.cfg) (hb : readFails s.cfg s.bus reg 1 bus) :
    getField reg mask s = .error ⟨.transportError, reg.setWidth 16⟩ (countError { s with bus := bus }) :=
  bind_of_error (getByte_fail hr hb) _

theorem getField_bad (mask : Byte) (hr : ¬ reg.toNat < regMax s.cfg) :
    getField reg mask s = .error ⟨.preconditionViolation, reg.setWidth 16⟩ s :=
  bind_of_error (getByte_bad hr) _

end

/-- Settles O23: a refused id, then for GETB and SETB the transaction that succeeds and the one that fails. -/
theorem byteAccess : Obligations.ByteAccess := by
  refine ⟨fun s reg => ⟨?getBad, fun hr => ⟨?getDone, ?getFails⟩⟩,
    fun s reg val => ⟨?setBad, fun hr => ⟨?setDone, ?setFails⟩⟩⟩
  case getBad => exact fun hr => complete_refused (bind_of_error (getByte_bad (Nat.not_lt.mpr hr)) _)
  case getDone =>
    intro v b hb
    rw [← setWidth_eq_ofNat]
    exact complete_result (getByte_noteRead hr hb) fun v => v.setWidth 64
  case getFails => exact fun b hb => complete_transport (bind_of_error (getByte_fail hr hb) _)
  case setBad => exact fun hr => complete_refused (setByte_bad (Nat.not_lt.mpr hr))
  case setDone => exact fun b hb => complete_ok (setByte_ok hr hb)
  case setFails => exact fun b hb => complete_transport (setByte_fail hr hb)

/-- Settles O26: GETF ends as the getByte it begins with; only the value is masked. -/
theorem getFieldMasks : Obligations.GetFieldMasks := by
  refine fun s reg mask => ⟨?bad, fun hr => ⟨?done, ?fails⟩⟩
  case bad => exact fun hr => complete_refused (bind_of_error (getField_bad mask (Nat.not_lt.mpr hr)) _)
  case done =>
    intro v b hb
    rw [← setWidth_eq_ofNat]
    exact complete_result (getField_ok hr hb) fun v => v.setWidth 64
  case fails => exact fun b hb => complete_transport (bind_of_error (getField_fail mask hr hb) _)

/-! ### GETW, SETW (R113, R114) -/

theorem setWord_bad {s : State} {reg : Byte} (v : U16) (hr : ¬ wordReg s.cfg reg) :
    setWord reg v s = .error ⟨.preconditionViolation, reg.setWidth 16⟩ s :=
  bind_of_error (checkWordReg_bad hr) _

theorem getWord_bad {s : State} {reg : Byte} (hr : ¬ wordReg s.cfg reg) :
    getWord reg s = .error ⟨.preconditionViolation, reg.setWidth 16⟩ s :=
  bind_of_error (checkWordReg_bad hr) _

/-- Settles O24: the word read is low byte first (`le16`), and so are the two bytes written. -/
theorem wordAccessIsLittleEndian : Obligations.WordAccessIsLittleEndian := by
  intro s reg v
  rw [← lowByte_eq, ← highByte_eq]
  refine ⟨fun hr => ⟨?getBad, ?setBad⟩, fun hr => ⟨?getDone, ?getFails, ?setDone, ?setFails⟩⟩
  case getBad => exact complete_refused (bind_of_error (getWord_bad hr) _)
  case setBad => exact complete_refused (setWord_bad v hr)
  case getDone =>
    intro b0 b1 b hb
    rw [← le16_toNat, ← setWidth_eq_ofNat]
    exact complete_result (getWord_ok hr hb) fun v => v.setWidth 64
  case getFails => exact fun b hb => complete_transport (bind_of_error (getWord_fail hr hb) _)
  case setDone => exact fun b hb => complete_ok (setWord_ok hr hb)
  case setFails => exact fun b hb => complete_transport (setWord_fail hr hb)

/-! ### GETBUF, SETBUF (R115, R116) -/

@[simp] theorem xferBytes_length (s : State) (n : Nat) : (xferBytes s n).length = n := by simp [xferBytes]

/-- The bytes SETBUF sends are the first of `XFER`. -/
theorem xferBytes_eq_take {s : State} {n : Nat} (h : n ≤ s.buf.xfer.length) : xferBytes s n = s.buf.xfer.take n := by
  apply List.ext_getElem
  · simp [h]
  · intro i h1 h2
    have hi : i < s.buf.xfer.length := by simp at h2; omega
    simp [xferBytes, hi]

theorem exec_getbuf_ok {s : State} {reg len : Byte} {bytes : List Byte} {bus : Bus}
    (h : getBuf reg len.toNat s = .ok bytes { s with bus := bus }) (hfit : bytes.length ≤ s.buf.xfer.length) :
    exec (.getbuf reg len) s = .next (completed { s with
      buf := { s.buf with xfer := bytes ++ s.buf.xfer.drop bytes.length }, bus := bus }) := by
  rw [← overlay_zero _ _ hfit]
  exact complete_ok (bind_of_ok h _)

/-- A length operand of 0 or above the limit, as a number. -/
theorem toNat_eq_zero_or_lt {len : Byte} {n : Nat} (h : len = 0 ∨ n < len.toNat) : len.toNat = 0 ∨ n < len.toNat :=
  h.imp_left fun h0 => congrArg BitVec.toNat h0

theorem toNat_ne_zero_of_ne {len : Byte} (h : len ≠ 0) : len.toNat ≠ 0 := fun h0 => h (BitVec.eq_of_toNat_eq h0)

/-- Settles O25: the refusals in their order, then the one transaction; what GETBUF stores is as long as what it
asked for. -/
theorem bufferTransfers : Obligations.BufferTransfers := by
  refine ⟨fun s reg len hx => ⟨?getBadReg, fun hr => ⟨?getBadLength, fun h0 hn => ⟨?getDone, ?getFails⟩⟩⟩,
    fun s reg len hx => ⟨?setBadReg, fun hr => ⟨?setBadLength, fun h0 hn => ?set⟩⟩⟩
  case getBadReg => exact fun hr => complete_refused (bind_of_error (getBuf_badReg (Nat.not_lt.mpr hr)) _)
  case getBadLength =>
    intro h
    rw [setWidth_eq_ofNat 16 len]
    exact complete_refused (bind_of_error (getBuf_badLength hr (toNat_eq_zero_or_lt h)) _)
  case getDone =>
    intro bytes b hb
    have hlen : bytes.length = len.toNat := busRead_length hb
    rw [← hlen]
    exact exec_getbuf_ok (getBuf_ok hr (toNat_ne_zero_of_ne h0) hn hb) (by omega)
  case getFails =>
    exact fun b hb => complete_transport (bind_of_error (getBuf_fail hr (toNat_ne_zero_of_ne h0) hn hb) _)
  case setBadReg => exact fun hr => complete_refused (setBuf_badReg (Nat.not_lt.mpr hr))
  case setBadLength =>
    intro h
    have hbad := setBuf_badLength (bytes := xferBytes s len.toNat) hr
    rw [xferBytes_length] at hbad
    rw [setWidth_eq_ofNat 16 len]
    exact complete_refused (hbad (toNat_eq_zero_or_lt h))
  case set =>
    have h0' := toNat_ne_zero_of_ne h0
    rw [← xferBytes_eq_take (hx ▸ hn)]
    rw [← xferBytes_length s len.toNat] at h0' hn
    exact ⟨fun b hb => complete_ok (setBuf_ok hr h0' hn hb),
      fun b hb => complete_transport (setBuf_fail hr h0' hn hb)⟩

/-! ### SETF (R118) -/

theorem flagWord_eq (wrote : Bool) : flagWord wrote = if wrote = true then 1 else 0 := by cases wrote <;> rfl

theorem fieldWriteOk_iff {c : Config} {w : FieldWrite} :
    fieldWriteOk c w = true ↔ w.reg.toNat < regMax c ∧ w.val &&& ~~~w.mask = 0 := by
  simp [fieldWriteOk]

/-- SETF whose setField succeeds. -/
theorem exec_setf_done {s : State} {w : FieldWrite} {b : Bus} {dc : DeviceContext} {wrote : Bool}
    (hw : fieldWriteOk s.cfg w = true) (h : fieldDone s.cfg w s.bus s.dc b dc wrote) :
    exec (.setf w.reg w.val w.mask) s = .next (completed { s with
      x := s.x.set 0 (if wrote = true then 1 else 0), dc := dc, bus := b }) := by
  rw [← flagWord_eq]
  exact complete_result (setField_done hw h) flagWord

/-- Settles O27: SETF ends as the setField it runs. -/
theorem setFieldWritesOnlyChanges : Obligations.SetFieldWritesOnlyChanges := by
  refine fun s reg val mask => ⟨?bad, fun hr hm => ?legal⟩
  case bad =>
    exact fun h => complete_refused (bind_of_error (setField_bad (h.imp_left Nat.not_lt.mpr)) _)
  case legal =>
    have hw : fieldWriteOk s.cfg ⟨reg, val, mask⟩ = true := fieldWriteOk_iff.mpr ⟨hr, hm⟩
    exact ⟨fun b dc wrote h => exec_setf_done hw h,
      fun b dc h => complete_transport (bind_of_error (setField_fails hw h) _)⟩

/-! ### SETF on the reference device (20_memory.md R78) -/

/-- The reference device stores a byte written at this address as it is, and reads it back: none of its FIFO, status
and control registers stands there. -/
def StoresAsWritten (c : Config) (addr : Byte) : Prop :=
  ∀ r ∈ [c.reg.fifoData, c.reg.fifoLvl, c.reg.fifoStat, c.reg.status, c.reg.control], addr ≠ regAddr c r.toNat

section
variable {c : Config} {d : SimDev} {b : Bus} {addr : Byte}

/-- With no failure scripted a read is answered by the reference device. -/
theorem busRead_of_simAnswers (hd : simAnswers b d) (addr : Byte) (n : Nat) :
    busRead c b addr n = (some (simReadOk c d addr n).1,
      ⟨.sim (simReadOk c d addr n).2, .read addr n (some (simReadOk c d addr n).1) :: b.log⟩) := by
  obtain ⟨hdev, hout⟩ := hd
  obtain ⟨reg, fifo, ovf, outcomes⟩ := d
  obtain rfl : outcomes = [] := hout
  simp only [busRead, deviceRead, hdev]
  rfl

/-- With no failure scripted a write is stored by the reference device. -/
theorem busWrite_of_simAnswers (hd : simAnswers b d) (addr : Byte) (bytes : List Byte) :
    busWrite c b addr bytes =
      (true, ⟨.sim (simWriteBytes c d addr.toNat bytes), .write addr bytes true :: b.log⟩) := by
  obtain ⟨hdev, hout⟩ := hd
  obtain ⟨reg, fifo, ovf, outcomes⟩ := d
  obtain rfl : outcomes = [] := hout
  simp only [busWrite, deviceWrite, hdev]
  rfl

theorem simReadOk_of_storesAsWritten (ha : StoresAsWritten c addr) :
    simReadOk c d addr 1 = ([memRead d.reg addr.toNat], d) := by
  simp only [StoresAsWritten, List.forall_mem_cons] at ha
  obtain ⟨hdata, hlvl, hstat, -⟩ := ha
  have hlt : addr.toNat < memSize := addr.isLt
  simp [simReadOk, hdata, hlvl, hstat, simReg, hlt]

theorem simWriteBytes_of_storesAsWritten (ha : StoresAsWritten c addr) (v : Byte) :
    simWriteBytes c d addr.toNat [v] = { d with reg := memWrite d.reg addr.toNat v } := by
  simp only [StoresAsWritten, List.forall_mem_cons, ne_eq, ← BitVec.toNat_inj] at ha
  obtain ⟨-, -, -, hstatus, hcontrol, -⟩ := ha
  have hlt : addr.toNat < memSize := addr.isLt
  simp [simWriteBytes, simWriteByte, hstatus, hcontrol, hlt]

theorem busRead_of_storesAsWritten (hd : simAnswers b d) (ha : StoresAsWritten c addr) :
    busRead c b addr 1 = (some [memRead d.reg addr.toNat],
      ⟨.sim d, .read addr 1 (some [memRead d.reg addr.toNat]) :: b.log⟩) := by
  rw [busRead_of_simAnswers hd, simReadOk_of_storesAsWritten ha]

theorem busWrite_of_storesAsWritten (hd : simAnswers b d) (ha : StoresAsWritten c addr) (v : Byte) :
    busWrite c b addr [v] = (true,
      ⟨.sim { d with reg := memWrite d.reg addr.toNat v }, .write addr [v] true :: b.log⟩) := by
  rw [busWrite_of_simAnswers hd, simWriteBytes_of_storesAsWritten ha]

end

/-- A SETF that completes on the reference device, where the register held `orig`: the device `d` it leaves holds the
merged byte, and the transactions are the read, and one write if the byte changed. -/
structure SetfOnSim (w : FieldWrite) (orig : Byte) (s t : State) (d : SimDev) : Prop where
  runs : exec (.setf w.reg w.val w.mask) s = .next t
  cfg : t.cfg = s.cfg
  lastErr : t.dc.lastErr = 0
  answers : simAnswers t.bus d
  wf : memWf d.reg = true
  stored : memRead d.reg (regAddr s.cfg w.reg.toNat).toNat = merged orig w
  same : merged orig w = orig → t.x[0] = 0 ∧
    t.bus.log = .read (regAddr s.cfg w.reg.toNat) 1 (some [orig]) :: s.bus.log
  written : merged orig w ≠ orig → t.x[0] = 1 ∧
    t.bus.log = .write (regAddr s.cfg w.reg.toNat) [merged orig w] true ::
      .read (regAddr s.cfg w.reg.toNat) 1 (some [orig]) :: s.bus.log

/-- SETF on a register the reference device stores as written. -/
theorem setf_onSim {s : State} {d : SimDev} {w : FieldWrite} (hw : fieldWriteOk s.cfg w = true)
    (hd : simAnswers s.bus d) (hwf : memWf d.reg = true) (ha : StoresAsWritten s.cfg (regAddr s.cfg w.reg.toNat)) :
    ∃ t d', SetfOnSim w (memRead d.reg (regAddr s.cfg w.reg.toNat).toNat) s t d' := by
  set addr := regAddr s.cfg w.reg.toNat
  set orig := memRead d.reg addr.toNat
  have hread : readOk s.cfg s.bus w.reg 1 [orig] ⟨.sim d, .read addr 1 (some [orig]) :: s.bus.log⟩ :=
    busRead_of_storesAsWritten hd ha
  by_cases hm : merged orig w = orig
  · have hdone := exec_setf_done hw ⟨orig, _, hread, .inl ⟨hm, rfl, rfl, rfl⟩⟩
    exact ⟨_, d, {
      runs := hdone
      cfg := rfl
      lastErr := rfl
      answers := ⟨rfl, hd.2⟩
      wf := hwf
      stored := hm.symm
      same := fun _ => ⟨by simp, rfl⟩
      written := fun hne => absurd hm hne }⟩
  · have hwrite := busWrite_of_storesAsWritten (c := s.cfg) (d := d)
      (b := ⟨.sim d, .read addr 1 (some [orig]) :: s.bus.log⟩) ⟨rfl, hd.2⟩ ha (merged orig w)
    have hdone := exec_setf_done hw ⟨orig, _, hread, .inr ⟨hm, rfl, hwrite, rfl⟩⟩
    exact ⟨_, { d with reg := memWrite d.reg addr.toNat (merged orig w) }, {
      runs := hdone
      cfg := rfl
      lastErr := rfl
      answers := ⟨rfl, hd.2⟩
      wf := memWf_memWrite hwf addr.isLt _
      stored := by rw [memRead_after_memWrite hwf, if_pos rfl]
      same := fun he => absurd he hm
      written := fun _ => ⟨by simp, rfl⟩ }⟩

/-- Merging the same field twice is merging it once. -/
theorem merged_merged (orig : Byte) (w : FieldWrite) : merged (merged orig w) w = merged orig w := by
  apply BitVec.eq_of_getLsbD_eq
  intro i hi
  simp only [merged, BitVec.getLsbD_or, BitVec.getLsbD_and, BitVec.getLsbD_not, hi, decide_true, Bool.true_and]
  cases orig.getLsbD i <;> cases w.val.getLsbD i <;> cases w.mask.getLsbD i <;> rfl

/-- The masked bits of the merged byte are the new value, which lies inside the mask. -/
theorem merged_and_mask (orig : Byte) {w : FieldWrite} (h : w.val &&& ~~~w.mask = 0) :
    merged orig w &&& w.mask = w.val := by
  apply BitVec.eq_of_getLsbD_eq
  intro i hi
  have hbit := congrArg (BitVec.getLsbD · i) h
  simp only [merged, BitVec.getLsbD_or, BitVec.getLsbD_and, BitVec.getLsbD_not, hi, decide_true,
    Bool.true_and] at hbit ⊢
  cases hv : w.val.getLsbD i <;> cases hm : w.mask.getLsbD i <;> simp [hv, hm] at hbit ⊢

/-- Settles O28: the first SETF leaves the merged byte in the register, and merging it again changes nothing. -/
theorem setFieldTwiceWritesOnce : Obligations.SetFieldTwiceWritesOnce := by
  intro s d reg val mask hd hwf hr hm ha addr
  have hw : fieldWriteOk s.cfg ⟨reg, val, mask⟩ = true := fieldWriteOk_iff.mpr ⟨hr, hm⟩
  obtain ⟨t, d1, first⟩ := setf_onSim hw hd hwf ha
  obtain ⟨u, d2, second⟩ :=
    setf_onSim (s := t) (w := ⟨reg, val, mask⟩) (first.cfg ▸ hw) first.answers first.wf (first.cfg ▸ ha)
  have hheld : memRead d1.reg (regAddr t.cfg reg.toNat).toNat = _ := first.cfg ▸ first.stored
  rw [hheld] at second
  obtain ⟨hx, hlog⟩ := second.same (merged_merged _ _)
  rw [first.cfg] at hlog
  exact ⟨t, u, _, _, first.runs, second.runs, first.lastErr, second.lastErr, rfl, merged_and_mask _ hm, first.same,
    first.written, hx, hlog⟩

/-! ### IDENT (R119) -/

section
variable {s t : State} {id rev : Byte}

theorem idMatches_iff {e : IdEntry} :
    idMatches id rev e = true ↔ id &&& e.idMask = e.id ∧ rev &&& e.revMask = e.rev := by
  simp [idMatches]

/-- What IDENT does once it has read the two ids. -/
def identReport (c : Config) (id rev : Byte) : Proc Unit := do
  let found := c.bus.deviceIds.findIdx? (idMatches id rev)
  update fun s => { s with dc := { s.dc with variant := found } }
  match found with
  | some k => update (setX 0 (BitVec.ofNat 64 k))
  | none => raise .unknownDevice (id.setWidth 16)

theorem exec_ident (s : State) : exec .ident s = complete (do
    let id ← getByte s.cfg.reg.id
    let rev ← getByte s.cfg.reg.revid
    identReport s.cfg id rev) s := rfl

theorem identReport_found {c : Config} {k : Nat} (h : c.bus.deviceIds.findIdx? (idMatches id rev) = some k) :
    identReport c id rev t =
      .ok () { t with x := t.x.set 0 (BitVec.ofNat 64 k), dc := { t.dc with variant := some k } } := by
  simp only [identReport, h, bind_update, update_run, setX_zero]

theorem identReport_unknown {c : Config} (h : c.bus.deviceIds.findIdx? (idMatches id rev) = none) :
    identReport c id rev t =
      .error ⟨.unknownDevice, id.setWidth 16⟩ { t with dc := { t.dc with variant := none } } := by
  simp only [identReport, h, bind_update, raise_run]

/-- A list is searched up to its first element that passes the test. -/
theorem findIdx?_append_cons {α : Type} {p : α → Bool} {before after : List α} {e : α}
    (hb : ∀ e' ∈ before, ¬ p e' = true) (he : p e = true) :
    (before ++ e :: after).findIdx? p = some before.length := by
  have hnone : before.findIdx? p = none := List.findIdx?_eq_none_iff.mpr fun e' h => Bool.eq_false_iff.mpr (hb e' h)
  simp [List.findIdx?_append, hnone, List.findIdx?_cons, he]

end

/-- Settles O29: the two reads one after the other, then the search of the list. -/
theorem identMatchesFirstEntry : Obligations.IdentMatchesFirstEntry := by
  intro s hc c fits
  have hid : c.reg.id.toNat < regMax c := symbolicId_lt hc (by simp [symbolicIds, c])
  have hrevid : c.reg.revid.toNat < regMax c := symbolicId_lt hc (by simp [symbolicIds, c])
  refine ⟨fun b hb => ?idFails, fun id b1 hb1 => ?idRead⟩
  case idFails =>
    rw [exec_ident]
    exact complete_transport (bind_of_error (getByte_fail hid hb) _)
  case idRead =>
    have hread := getByte_noteRead hid hb1
    refine ⟨fun b hb => ?revFails, fun rev b2 hb2 => ?revRead⟩
    case revFails =>
      have hfail := getByte_fail (s := { s with dc := noteRead c c.reg.id id s.dc, bus := b1 }) hrevid hb
      rw [exec_ident]
      exact complete_transport ((bind_of_ok hread _).trans (bind_of_error hfail _))
    case revRead =>
      have hread2 := getByte_noteRead (s := { s with dc := noteRead c c.reg.id id s.dc, bus := b1 }) hrevid hb2
      have hrun : exec .ident s = complete (identReport c id rev) _ :=
        complete_congr ((bind_of_ok hread _).trans (bind_of_ok hread2 _))
      rw [hrun]
      refine ⟨fun before e after hlist hbefore he => ?found, fun hnone => ?unknown⟩
      case found =>
        have hfind : c.bus.deviceIds.findIdx? (idMatches id rev) = some before.length := by
          rw [hlist]
          exact findIdx?_append_cons (fun e' h hm => hbefore e' h (idMatches_iff.mp hm)) (idMatches_iff.mpr he)
        exact complete_ok (identReport_found hfind)
      case unknown =>
        have hfind : c.bus.deviceIds.findIdx? (idMatches id rev) = none :=
          List.findIdx?_eq_none_iff.mpr fun e h => Bool.eq_false_iff.mpr fun hm => hnone e h (idMatches_iff.mp hm)
        exact complete_fault (identReport_unknown hfind)

end Sys2Proof.Machine
end

section
/-! Square root and magnitudes (41_dsp_kernels.md R131, R137): the binary search keeps the root between its bounds, so
`isqrt` is the floor root of every 64-bit value; MAG writes that root of each bin's power up to the first that does not
fit. -/

namespace Sys2Proof.Machine

/-! ### ISQRT (R131) -/

/-- `r` is the floor square root of `v`. -/
def IsFloorRoot (v r : Nat) : Prop := r * r ≤ v ∧ v < (r + 1) * (r + 1)

/-- A search whose bounds enclose the root, with enough halvings left to bring them together, ends at the root. -/
theorem isqrtSearch_isFloorRoot {v fuel lo hi : Nat} (hlo : lo * lo ≤ v) (hhi : v < (hi + 1) * (hi + 1))
    (hle : lo ≤ hi) (hfuel : hi - lo < 2 ^ fuel) :
    IsFloorRoot v (isqrtSearch v fuel lo hi) ∧ isqrtSearch v fuel lo hi ≤ hi := by
  induction fuel generalizing lo hi with
  | zero =>
    obtain rfl : lo = hi := by omega
    exact ⟨⟨hlo, hhi⟩, le_rfl⟩
  | succ fuel ih =>
    have hhalf : hi - lo < 2 * 2 ^ fuel := by rwa [pow_succ'] at hfuel
    unfold isqrtSearch
    by_cases hlt : lo < hi
    · rw [if_pos hlt]
      set mid := (lo + hi + 1) / 2
      have hmid : lo < mid ∧ mid ≤ hi := by omega
      by_cases hsq : mid * mid ≤ v
      · simp only [if_pos hsq]
        exact ih hsq hhi hmid.2 (by omega)
      · simp only [if_neg hsq]
        have hpred : mid - 1 + 1 = mid := by omega
        obtain ⟨hroot, hbound⟩ := ih hlo (by rw [hpred]; omega) (by omega : lo ≤ mid - 1) (by omega)
        exact ⟨hroot, by omega⟩
    · rw [if_neg hlt]
      obtain rfl : lo = hi := by omega
      exact ⟨⟨hlo, hhi⟩, le_rfl⟩

theorem isqrt_isFloorRoot {v : Nat} (hv : v < 2 ^ 64) : IsFloorRoot v (isqrt v) ∧ isqrt v ≤ 0xFFFFFFFF := by
  have hhi : v < (min v 0xFFFFFFFF + 1) * (min v 0xFFFFFFFF + 1) := by
    rcases Nat.le_total v 0xFFFFFFFF with h | h
    · rw [min_eq_left h]
      nlinarith
    · rw [min_eq_right h]
      omega
  obtain ⟨hroot, hbound⟩ :=
    isqrtSearch_isFloorRoot (fuel := 32) (Nat.zero_le v) hhi (Nat.zero_le _) (by omega)
  exact ⟨hroot, hbound.trans (min_le_right _ _)⟩

theorem exec_isqrt (s : State) :
    exec .isqrt s = .next (completed { s with x := s.x.set 0 (BitVec.ofNat 64 (isqrt (s.x[1]).toNat)) }) := by
  rw [← getX_of_lt (by decide : 1 < 8)]
  exact complete_result (look_run (getX · 1) s) fun v => BitVec.ofNat 64 (isqrt v.toNat)

/-- Settles O30: what ISQRT puts in `x[0]` is the root the search ends at. -/
theorem squareRootIsFloor : Obligations.SquareRootIsFloor := by
  intro s
  obtain ⟨⟨hle, hlt⟩, hbound⟩ := isqrt_isFloorRoot (s.x[1]).isLt
  exact ⟨_, exec_isqrt s, hle, hlt, hbound⟩

/-! ### MAG (R137) -/

/-- `out'` is `out` with the floor roots of the powers of bins `lo` to `hi - 1` in their places. -/
structure RootsWritten (h : Nat) (b : Buffers) (lo hi : Nat) (out out' : List U64) : Prop where
  length : out'.length = out.length
  roots : ∀ i, lo ≤ i → i < hi → IsFloorRoot (power h b i) (out'.getD i 0).toNat
  others : ∀ i, i < lo ∨ hi ≤ i → out'.getD i 0 = out.getD i 0

section
variable {h lo hi count k : Nat} {b : Buffers} {out out' : List U64}

theorem rootsWritten_refl : RootsWritten h b lo lo out out :=
  ⟨rfl, fun _ h1 h2 => absurd h1 (by omega), fun _ _ => rfl⟩

/-- The root of one bin stored, then those of the bins after it. -/
theorem rootsWritten_cons (hlen : lo < out.length) (hp : power h b lo < 2 ^ 64) (hle : lo + 1 ≤ hi)
    (hw : RootsWritten h b (lo + 1) hi (out.set lo (BitVec.ofNat 64 (isqrt (power h b lo)))) out') :
    RootsWritten h b lo hi out out' where
  length := hw.length.trans (by simp)
  roots i h1 h2 := by
    by_cases hi : lo = i
    · subst hi
      obtain ⟨hroot, hbound⟩ := isqrt_isFloorRoot hp
      have hfits : isqrt (power h b lo) < 2 ^ 64 := by omega
      rw [hw.others lo (by omega), List.getD_eq_getElem _ _ (by simpa using hlen), List.getElem_set_self,
        BitVec.toNat_ofNat, Nat.mod_eq_of_lt hfits]
      exact hroot
    · exact hw.roots i (by omega) h2
  others i hi := by
    have hne : lo ≠ i := by omega
    rw [hw.others i (by omega)]
    simp [hne]

/-- The loop of MAG over bins whose powers fit. -/
theorem magLoop_of_fits (hlen : lo + count ≤ out.length)
    (hp : ∀ i, lo ≤ i → i < lo + count → power h b i < 2 ^ 64) :
    ∃ out', magLoop h b count lo out = .ok out' ∧ RootsWritten h b lo (lo + count) out out' := by
  induction count generalizing lo out with
  | zero => exact ⟨out, rfl, rootsWritten_refl⟩
  | succ count ih =>
    have hfirst := hp lo (by omega) (by omega)
    obtain ⟨out', hrun, hw⟩ := ih (lo := lo + 1) (out := out.set lo (BitVec.ofNat 64 (isqrt (power h b lo))))
      (by simp; omega) fun i h1 h2 => hp i (by omega) (by omega)
    rw [Nat.add_right_comm] at hw
    refine ⟨out', ?_, rootsWritten_cons (by omega) hfirst (by omega) hw⟩
    rw [magLoop, if_pos hfirst, hrun]

/-- The loop of MAG up to the first bin whose power does not fit. -/
theorem magLoop_of_overflow (hlen : lo + count ≤ out.length) (hlo : lo ≤ k) (hk : k < lo + count)
    (hover : 2 ^ 64 ≤ power h b k) (hp : ∀ i, lo ≤ i → i < k → power h b i < 2 ^ 64) :
    ∃ out', magLoop h b count lo out = .error (k, out') ∧ RootsWritten h b lo k out out' := by
  induction count generalizing lo out with
  | zero => omega
  | succ count ih =>
    by_cases hlast : lo = k
    · subst hlast
      exact ⟨out, by rw [magLoop, if_neg (by omega)], rootsWritten_refl⟩
    · have hfirst := hp lo (by omega) (by omega)
      obtain ⟨out', hrun, hw⟩ := ih (lo := lo + 1) (out := out.set lo (BitVec.ofNat 64 (isqrt (power h b lo))))
        (by simp; omega) (by omega) (by omega) fun i h1 h2 => hp i (by omega) h2
      refine ⟨out', ?_, rootsWritten_cons (by omega) hfirst (by omega) hw⟩
      rw [magLoop, if_pos hfirst, hrun]

end

section
variable {s : State} {n : U16} {out : List U64}

theorem magnitude_refused (h : n = 0 ∨ s.cfg.flk.fftMax < n.toNat) :
    magnitude n s = .error ⟨.preconditionViolation, n⟩ s := by
  refine bind_of_error (require_bad ?_ _ _) _
  rcases h with rfl | h
  · rfl
  · simp [Nat.not_le.mpr h]

theorem require_magnitude_ok (h0 : n ≠ 0) (hn : n.toNat ≤ s.cfg.flk.fftMax) :
    require (n != 0 && decide (n.toNat ≤ s.cfg.flk.fftMax)) n s = .ok () s :=
  require_ok (by rw [bne_iff_ne.mpr h0, decide_eq_true hn, Bool.and_self]) _ _

theorem magnitude_of_ok (h0 : n ≠ 0) (hn : n.toNat ≤ s.cfg.flk.fftMax)
    (h : magLoop s.cfg.flk.magPreshift s.buf n.toNat 0 s.buf.mag = .ok out) :
    magnitude n s = .ok () { s with buf := { s.buf with mag := out } } := by
  refine (bind_of_ok (require_magnitude_ok h0 hn) _).trans ?_
  rw [bind_look, h]
  rfl

theorem magnitude_of_error {k : Nat} (h0 : n ≠ 0) (hn : n.toNat ≤ s.cfg.flk.fftMax)
    (h : magLoop s.cfg.flk.magPreshift s.buf n.toNat 0 s.buf.mag = .error (k, out)) :
    magnitude n s = .error ⟨.arithOverflow, BitVec.ofNat 16 k⟩ { s with buf := { s.buf with mag := out } } := by
  refine (bind_of_ok (require_magnitude_ok h0 hn) _).trans ?_
  rw [bind_look, h]
  rfl

end

/-- The power of a bin as an integer. -/
theorem power_cast (h : Nat) (b : Buffers) (i : Nat) :
    (power h b i : Int) = elem b.re i / 2 ^ h * (elem b.re i / 2 ^ h) + elem b.im i / 2 ^ h * (elem b.im i / 2 ^ h) := by
  simp only [power, asr_eq]
  exact Int.toNat_of_nonneg (add_nonneg (mul_self_nonneg _) (mul_self_nonneg _))

/-- Settles O35: the size check, then the loop, which stops at the first power that does not fit. -/
theorem magnitudeOfEachBin : Obligations.MagnitudeOfEachBin := by
  intro s n hs r p root
  have hpower (i : Nat) : p i = power s.cfg.flk.magPreshift s.buf i := (power_cast _ _ _).symm
  have hroot {k : Nat} {mag : List U64} (hw : RootsWritten s.cfg.flk.magPreshift s.buf 0 k s.buf.mag mag) :
      root k mag := by
    refine ⟨hw.length, fun i hi => ?_, fun i hi => hw.others i (.inr hi)⟩
    rw [hpower]
    exact_mod_cast hw.roots i (Nat.zero_le i) hi
  refine ⟨fun h => complete_refused (magnitude_refused h), fun h0 hn => ⟨fun hp => ?fits, fun k hk hover hp => ?stops⟩⟩
  all_goals
    have hlen : 0 + n.toNat ≤ s.buf.mag.length := by rw [hs.buf.mag]; omega
    simp only [hpower] at hp
  case fits =>
    obtain ⟨mag, hrun, hw⟩ := magLoop_of_fits hlen fun i _ hi => by exact_mod_cast hp i (by omega)
    rw [Nat.zero_add] at hw
    exact ⟨mag, hroot hw, complete_ok (magnitude_of_ok h0 hn hrun)⟩
  case stops =>
    rw [hpower] at hover
    obtain ⟨mag, hrun, hw⟩ := magLoop_of_overflow hlen (Nat.zero_le k.toNat) (by omega) (by exact_mod_cast hover)
      fun i _ hi => by exact_mod_cast hp i hi
    have hfault := complete_fault (magnitude_of_error h0 hn hrun)
    rw [BitVec.ofNat_toNat, BitVec.setWidth_eq] at hfault
    exact ⟨mag, hroot hw, hfault⟩

end Sys2Proof.Machine
end

section
/-! The window kernels (41_dsp_kernels.md R133, R134). -/

namespace Sys2Proof.Machine

theorem overlay_of_length_eq {α : Type} {l vs : List α} (h : vs.length = l.length) : overlay l 0 vs = vs := by
  rw [overlay_zero _ _ h.le, h, List.drop_length, List.append_nil]

theorem exec_wingen {s : State} (hs : s.Legal) :
    exec .wingen s = .next (completed { s with buf := { s.buf with win := s.cfg.winTab } }) := by
  have hlen : s.cfg.winTab.length = s.buf.win.length := (configOk_sizes hs.cfg).1.trans hs.buf.win.symm
  have hrun : windowGenerate s = { s with buf := { s.buf with win := s.cfg.winTab } } := by
    rw [windowGenerate, overlay_of_length_eq hlen]
  rw [← hrun]
  exact complete_ok (update_run windowGenerate s)

theorem saturated_take_iff {l : List U16} {n : Nat} (hn : n ≤ l.length) :
    saturated (l.take n) = true ↔ ∃ i < n, 0x3FFF ≤ (l.getD i 0).toNat := by
  simp only [saturated, List.any_eq_true, satLevel, List.mem_take_iff_getElem]
  constructor
  · rintro ⟨_, ⟨i, hi, rfl⟩, hv⟩
    exact ⟨i, by omega, by rw [List.getD_eq_getElem _ _ (by omega)]; exact of_decide_eq_true hv⟩
  · rintro ⟨i, hi, hv⟩
    rw [List.getD_eq_getElem _ _ (by omega)] at hv
    exact ⟨_, ⟨i, by omega, rfl⟩, decide_eq_true hv⟩

theorem windowedFrame_getD (b : Buffers) {i : Nat} (hi : i < 128) :
    (windowedFrame b).getD i 0 = BitVec.ofNat 64 ((b.clear.getD i 0).toNat * (b.win.getD i 0).toNat / 1024) := by
  have hlen : i < (windowedFrame b).length := by simpa [windowedFrame, winN] using hi
  rw [List.getD_eq_getElem _ _ hlen]
  simp [windowedFrame, windowed, winShift, Nat.shiftRight_eq_div_pow]

theorem applyWindow_flk_satf (s : State) :
    (applyWindow s).flk.satf = (s.flk.satf || saturated (s.buf.clear.take winN)) := rfl

/-- A run of 128 elements stored from the start of an array that has them. -/
theorem overlay_frame_getD {l vs : List U64} (hvs : vs.length = 128) (hl : 128 ≤ l.length) (i : Nat) :
    (overlay l 0 vs).getD i 0 = if i < 128 then vs.getD i 0 else l.getD i 0 := by
  rw [overlay_getD, hvs]
  by_cases hi : i < 128
  · rw [if_pos ⟨by omega, by omega, by omega⟩, if_pos hi, Nat.sub_zero]
  · rw [if_neg (by omega), if_neg hi]

theorem exec_window_of_other_length {s : State} (h : s.flk.sampleCount.toNat ≠ 128) :
    exec .window s = .next (faulted 3 s.flk.sampleCount s) := by
  have hbad : (s.flk.sampleCount.toNat == winN) = false := by simpa [winN] using h
  exact complete_refused (bind_of_error (bind_of_error (require_bad hbad _ _) _) _)

theorem exec_window_of_length {s : State} (h : s.flk.sampleCount.toNat = 128) :
    exec .window s = .next (completed { applyWindow s with
      x := s.x.set 0 (if (applyWindow s).flk.satf = true then 1 else 0) }) := by
  have hok : (s.flk.sampleCount.toNat == winN) = true := by simpa [winN] using h
  have hrun : window s = .ok () (applyWindow s) := bind_of_ok (require_ok hok _ _) _
  rw [← flagWord_eq]
  refine complete_ok ((bind_of_ok hrun _).trans ?_)
  rw [update_run, setX_zero, applyWindow_x]

/-- Settles O31: WINGEN stores the whole table; WINDOW stores two runs of 128 elements. -/
theorem windowKernels : Obligations.WindowKernels := by
  refine ⟨fun s hs => exec_wingen hs, fun s hs => ⟨exec_window_of_other_length, fun hn => ?_⟩⟩
  obtain ⟨-, h128, -⟩ := configOk_sizes hs.cfg
  refine ⟨_, _, _, exec_window_of_length hn, ?flag, overlay_length _ _ _, overlay_length _ _ _, fun i => ?re,
    fun i => ?im⟩
  case flag =>
    rw [applyWindow_flk_satf, Bool.or_eq_true, winN, saturated_take_iff (by rw [hs.buf.clear]; exact h128)]
  case re =>
    rw [overlay_frame_getD (by simp [windowedFrame, winN]) (by rw [hs.buf.re]; exact h128)]
    split
    next hi => exact windowedFrame_getD _ hi
    next => rfl
  case im =>
    rw [overlay_frame_getD (by simp [winN]) (by rw [hs.buf.im]; exact h128)]
    split
    next hi => exact List.getD_replicate _ hi
    next => rfl

end Sys2Proof.Machine
end

section
/-! The bit-reversal permutation (41_dsp_kernels.md R132): bit `k` of `bitrev i m` is bit `m - 1 - k` of `i`, so the
permutation is an involution, and exchanging each index with its reversal is reading every element at the reversed
index. -/

namespace Sys2Proof.Machine

/-! ### Reversing the bits of an index -/

theorem bitrev_lt (i m : Nat) : bitrev i m < 2 ^ m := by
  induction m generalizing i with
  | zero => exact Nat.one_pos
  | succ m ih =>
    have hlow := ih (i / 2)
    have hbit : i % 2 * 2 ^ m ≤ 1 * 2 ^ m := Nat.mul_le_mul_right _ (by omega)
    rw [bitrev, pow_succ']
    omega

theorem testBit_bitrev (i m k : Nat) : (bitrev i m).testBit k = (decide (k < m) && i.testBit (m - 1 - k)) := by
  induction m generalizing i k with
  | zero => simp [bitrev]
  | succ m ih =>
    rw [bitrev, Nat.mul_comm, Nat.testBit_two_pow_mul_add _ (bitrev_lt _ _)]
    split
    next hk =>
      have hnext : m - k = (m - 1 - k) + 1 := by omega
      rw [ih, Nat.testBit_div_two, Nat.add_sub_cancel, hnext]
      simp [hk, Nat.lt_succ_of_lt hk]
    next hk =>
      by_cases hkm : k = m
      · subst hkm
        simp
      · have htop : i % 2 < 2 ^ (k - m) :=
          (Nat.mod_lt i two_pos).trans_le (Nat.le_self_pow (by omega) 2)
        rw [Nat.testBit_lt_two_pow htop, decide_eq_false (by omega), Bool.false_and]

theorem bitrev_bitrev {i m : Nat} (hi : i < 2 ^ m) : bitrev (bitrev i m) m = i := by
  apply Nat.eq_of_testBit_eq
  intro k
  rw [testBit_bitrev, testBit_bitrev]
  by_cases hk : k < m
  · have hback : m - 1 - (m - 1 - k) = k := by omega
    have hlt : m - 1 - k < m := by omega
    rw [hback, decide_eq_true hk, decide_eq_true hlt, Bool.true_and, Bool.true_and]
  · have hhigh : i < 2 ^ k := hi.trans_le (Nat.pow_le_pow_right two_pos (by omega))
    rw [decide_eq_false hk, Bool.false_and, Nat.testBit_lt_two_pow hhigh]

/-! ### Arrays by their elements -/

theorem eq_of_getD {l l' : List U64} (hlen : l'.length = l.length) (h : ∀ i, l'.getD i 0 = l.getD i 0) : l' = l := by
  apply List.ext_getElem hlen
  intro i h1 h2
  have hi := h i
  rwa [List.getD_eq_getElem _ _ h1, List.getD_eq_getElem _ _ h2] at hi

theorem getD_set (l : List U64) (k : Nat) (v : U64) (i : Nat) :
    (l.set k v).getD i 0 = if k = i ∧ k < l.length then v else l.getD i 0 := by
  rw [List.getD_eq_getElem?_getD, List.getElem?_set, List.getD_eq_getElem?_getD]
  by_cases hki : k = i
  · subst hki
    by_cases hk : k < l.length <;> simp [hk]
  · simp [hki]

/-! ### The gather (log 16) -/

theorem bitReverse_length (m : Nat) (l : List U64) : (bitReverse m l).length = l.length := overlay_length _ _ _

/-- For an array shorter than `2^m` too: what would fall beyond it is not stored. -/
theorem bitReverse_getD_of_le {m i : Nat} (l : List U64) (hi : 2 ^ m ≤ i) :
    (bitReverse m l).getD i 0 = l.getD i 0 := by
  rw [bitReverse, overlay_getD, if_neg]
  simp only [List.length_map, List.length_range]
  omega

theorem bitReverse_getD_of_lt {m i : Nat} {l : List U64} (hl : 2 ^ m ≤ l.length) (hi : i < 2 ^ m) :
    (bitReverse m l).getD i 0 = l.getD (bitrev i m) 0 := by
  have hrange : 0 ≤ i ∧ i < 0 + ((List.range (2 ^ m)).map fun i => l.getD (bitrev i m) 0).length ∧ i < l.length := by
    simp only [List.length_map, List.length_range]
    omega
  rw [bitReverse, overlay_getD, if_pos hrange, Nat.sub_zero, List.getD_eq_getElem _ _ (by simpa using hi)]
  simp

theorem bitReverse_bitReverse {m : Nat} {l : List U64} (hl : 2 ^ m ≤ l.length) :
    bitReverse m (bitReverse m l) = l := by
  apply eq_of_getD (by rw [bitReverse_length, bitReverse_length])
  intro i
  by_cases hi : i < 2 ^ m
  · rw [bitReverse_getD_of_lt (by rwa [bitReverse_length]) hi, bitReverse_getD_of_lt hl (bitrev_lt i m),
      bitrev_bitrev hi]
  · rw [bitReverse_getD_of_le _ (by omega), bitReverse_getD_of_le _ (by omega)]

/-- One element is its own reversal. -/
theorem bitReverse_zero (l : List U64) : bitReverse 0 l = l := by
  cases l with
  | nil => rfl
  | cons x xs => simp [bitReverse, overlay, bitrev]

/-! ### The exchanges (R132) -/

/-- The array after the exchange for index `i`, which is made where `i` is below its reversal. -/
def exchanged (m i : Nat) (l : List U64) : List U64 :=
  if i < bitrev i m then (l.set i (l.getD (bitrev i m) 0)).set (bitrev i m) (l.getD i 0) else l

theorem exchanges_succ (m count i : Nat) (l : List U64) :
    exchanges m (count + 1) i l = exchanges m count (i + 1) (exchanged m i l) := rfl

theorem exchanged_length (m i : Nat) (l : List U64) : (exchanged m i l).length = l.length := by
  unfold exchanged
  split <;> simp

section
variable {m i x : Nat} {l : List U64}

theorem exchanged_getD_of_le (hi : i < 2 ^ m) (hx : 2 ^ m ≤ x) : (exchanged m i l).getD x 0 = l.getD x 0 := by
  have hrev := bitrev_lt i m
  unfold exchanged
  split
  · rw [getD_set, getD_set, if_neg (by omega), if_neg (by omega)]
  · rfl

/-- The exchange for index `i` reverses the pair of indices of which `i` is the smaller. -/
theorem exchanged_getD_of_lt (hl : 2 ^ m ≤ l.length) (hi : i < 2 ^ m) (hx : x < 2 ^ m) :
    (exchanged m i l).getD x 0 = if min x (bitrev x m) = i then l.getD (bitrev x m) 0 else l.getD x 0 := by
  have hrev := bitrev_lt i m
  have hii := bitrev_bitrev hi
  have hxx := bitrev_bitrev hx
  have hpair : bitrev x m = i ↔ bitrev i m = x :=
    ⟨fun h => h ▸ hxx, fun h => h ▸ hii⟩
  unfold exchanged
  by_cases hlt : i < bitrev i m
  · rw [if_pos hlt, getD_set, getD_set, List.length_set]
    by_cases h1 : bitrev i m = x
    · have hxi := hpair.mpr h1
      rw [if_pos ⟨h1, by omega⟩, if_pos (by omega), hxi]
    · have hxi := mt hpair.mp h1
      by_cases h2 : i = x
      · subst h2
        rw [if_neg (fun h => h1 h.1), if_pos ⟨rfl, by omega⟩, if_pos (by omega)]
      · rw [if_neg (fun h => h1 h.1), if_neg (fun h => h2 h.1), if_neg (by omega)]
  · rw [if_neg hlt]
    split
    next hmin =>
      have hself : bitrev x m = x := by
        by_cases h1 : x = i
        · subst h1; omega
        · have := hpair.mp (by omega)
          omega
      rw [hself]
    next => rfl

end

theorem exchanges_length (m count i : Nat) (l : List U64) : (exchanges m count i l).length = l.length := by
  induction count generalizing i l with
  | zero => rfl
  | succ count ih => rw [exchanges_succ, ih, exchanged_length]

section
variable {m count i x : Nat} {l : List U64}

theorem exchanges_getD_of_le (hi : i + count ≤ 2 ^ m) (hx : 2 ^ m ≤ x) :
    (exchanges m count i l).getD x 0 = l.getD x 0 := by
  induction count generalizing i l with
  | zero => rfl
  | succ count ih => rw [exchanges_succ, ih (by omega), exchanged_getD_of_le (by omega) hx]

/-- The exchanges for the indices from `i` on reverse the pairs of which the smaller index is one of these. -/
theorem exchanges_getD_of_lt (hl : 2 ^ m ≤ l.length) (hi : i + count ≤ 2 ^ m) (hx : x < 2 ^ m) :
    (exchanges m count i l).getD x 0 =
      if i ≤ min x (bitrev x m) ∧ min x (bitrev x m) < i + count then l.getD (bitrev x m) 0 else l.getD x 0 := by
  induction count generalizing i l with
  | zero => rw [if_neg (by omega)]; rfl
  | succ count ih =>
    have hrev := bitrev_lt x m
    rw [exchanges_succ, ih (by rwa [exchanged_length]) (by omega), exchanged_getD_of_lt hl (by omega) hx,
      exchanged_getD_of_lt hl (by omega) hrev, bitrev_bitrev hx, min_comm (bitrev x m) x]
    by_cases hnow : min x (bitrev x m) = i
    · rw [if_neg (by omega), if_pos hnow, if_pos (by omega)]
    · rw [if_neg hnow, if_neg hnow]
      congr 1
      apply propext
      omega

end

theorem bitReverse_eq_exchanges {m : Nat} {l : List U64} (hl : 2 ^ m ≤ l.length) :
    bitReverse m l = exchanges m (2 ^ m) 0 l := by
  apply eq_of_getD (by rw [bitReverse_length, exchanges_length])
  intro x
  by_cases hx : x < 2 ^ m
  · rw [bitReverse_getD_of_lt hl hx, exchanges_getD_of_lt hl (by omega) hx, if_pos (by omega)]
  · rw [bitReverse_getD_of_le _ (by omega), exchanges_getD_of_le (by omega) (by omega)]

end Sys2Proof.Machine
end

section
/-! What an FFT touches, however it ends (41_dsp_kernels.md R130, R135): a butterfly its two elements, the butterflies
of one twiddle the indices of one residue modulo half a block, a stage the elements below n. -/

namespace Sys2Proof.Machine

/-- Only elements whose index has the property differ. -/
structure ChangesOnly (P : Nat → Prop) (sp sp' : Spectrum) : Prop where
  reLength : sp'.re.length = sp.re.length
  imLength : sp'.im.length = sp.im.length
  re : ∀ i, ¬ P i → sp'.re.getD i 0 = sp.re.getD i 0
  im : ∀ i, ¬ P i → sp'.im.getD i 0 = sp.im.getD i 0

section
variable {P Q : Nat → Prop} {sp sp' sp'' : Spectrum}

theorem ChangesOnly.refl (P : Nat → Prop) (sp : Spectrum) : ChangesOnly P sp sp :=
  ⟨rfl, rfl, fun _ _ => rfl, fun _ _ => rfl⟩

theorem ChangesOnly.trans (h : ChangesOnly P sp sp') (h' : ChangesOnly P sp' sp'') : ChangesOnly P sp sp'' where
  reLength := h'.reLength.trans h.reLength
  imLength := h'.imLength.trans h.imLength
  re i hi := (h'.re i hi).trans (h.re i hi)
  im i hi := (h'.im i hi).trans (h.im i hi)

theorem ChangesOnly.mono (hPQ : ∀ i, P i → Q i) (h : ChangesOnly P sp sp') : ChangesOnly Q sp sp' where
  reLength := h.reLength
  imLength := h.imLength
  re i hi := h.re i (mt (hPQ i) hi)
  im i hi := h.im i (mt (hPQ i) hi)

/-- A part of an FFT from `sp` changes only such elements, and an overflow reports one of them. -/
def EndsIn (P : Nat → Prop) (sp : Spectrum) : SpectrumResult → Prop
  | .ok sp' => ChangesOnly P sp sp'
  | .error (i, sp') => P i ∧ ChangesOnly P sp sp'

theorem EndsIn.mono {r : SpectrumResult} (hPQ : ∀ i, P i → Q i) (h : EndsIn P sp r) : EndsIn Q sp r := by
  cases r with
  | ok sp' => exact ChangesOnly.mono hPQ h
  | error e => exact ⟨hPQ _ h.1, h.2.mono hPQ⟩

theorem EndsIn.after {r : SpectrumResult} (h : ChangesOnly P sp sp') (hr : EndsIn P sp' r) : EndsIn P sp r := by
  cases r with
  | ok sp'' => exact h.trans hr
  | error e => exact ⟨hr.1, h.trans hr.2⟩

theorem EndsIn.bind {r : SpectrumResult} {f : Spectrum → SpectrumResult} (h : EndsIn P sp r)
    (hf : ∀ sp', EndsIn P sp' (f sp')) : EndsIn P sp (r.bind f) := by
  cases r with
  | ok sp' => exact EndsIn.after h (hf sp')
  | error e => exact h

end

/-! ### Butterflies -/

theorem changesOnly_setRe (i : Nat) (x : U64) (sp : Spectrum) :
    ChangesOnly (· = i) sp { sp with re := sp.re.set i x } where
  reLength := List.length_set
  imLength := rfl
  re j hj := by rw [getD_set, if_neg fun h => hj h.1.symm]
  im _ _ := rfl

theorem changesOnly_setIm (i : Nat) (x : U64) (sp : Spectrum) :
    ChangesOnly (· = i) sp { sp with im := sp.im.set i x } where
  reLength := rfl
  imLength := List.length_set
  re _ _ := rfl
  im j hj := by rw [getD_set, if_neg fun h => hj h.1.symm]

theorem storeRe_endsIn (i : Nat) (v : Int) (sp : Spectrum) : EndsIn (· = i) sp (storeRe i v sp) := by
  unfold storeRe
  split
  · exact changesOnly_setRe i _ sp
  · exact ⟨rfl, .refl _ sp⟩

theorem storeIm_endsIn (i : Nat) (v : Int) (sp : Spectrum) : EndsIn (· = i) sp (storeIm i v sp) := by
  unfold storeIm
  split
  · exact changesOnly_setIm i _ sp
  · exact ⟨rfl, .refl _ sp⟩

theorem butterfly_endsIn (wr wi : Int) (k p : Nat) (sp : Spectrum) :
    EndsIn (fun i => i = k ∨ i = p) sp (butterfly wr wi k p sp) := by
  have store (i : Nat) (hi : i = k ∨ i = p) (vr vi : Int) (sp : Spectrum) :
      EndsIn (fun i => i = k ∨ i = p) sp ((storeRe i vr sp).bind (storeIm i vi)) := by
    have hsub : ∀ j, j = i → j = k ∨ j = p := fun j hj => hj ▸ hi
    exact ((storeRe_endsIn i vr sp).mono hsub).bind fun sp' => (storeIm_endsIn i vi sp').mono hsub
  unfold butterfly
  simp only
  split
  · exact (store p (.inr rfl) _ _ sp).bind (store k (.inl rfl) _ _)
  · refine ⟨?_, .refl _ sp⟩
    unfold sumOverflowIndex
    split
    · exact .inr rfl
    · exact .inl rfl

/-! ### Loops -/

/-- The indices the butterflies of one twiddle touch, from block element `k` on. -/
def Lane (half n k i : Nat) : Prop := i % half = k % half ∧ k ≤ i ∧ i < n

/-- The indices the butterflies of the twiddles from `j` on touch. -/
def LanesFrom (half n j i : Nat) : Prop := j ≤ i % half ∧ i < n

section
variable {half n k j count : Nat} {sp : Spectrum}

theorem lane_of_pair {i : Nat} (hn : k + half < n) (hi : i = k ∨ i = k + half) : Lane half n k i := by
  rcases hi with rfl | rfl
  · exact ⟨rfl, le_rfl, by omega⟩
  · exact ⟨Nat.add_mod_right _ _, by omega, hn⟩

theorem lane_of_nextBlock {i : Nat} (hi : Lane half n (k + 2 * half) i) : Lane half n k i := by
  obtain ⟨hmod, hle, hlt⟩ := hi
  exact ⟨hmod.trans (Nat.add_mul_mod_self_right k 2 half), by omega, hlt⟩

theorem lanesFrom_of_lane {i : Nat} (hj : j < half) (hi : Lane half n j i) : LanesFrom half n j i :=
  ⟨by rw [hi.1, Nat.mod_eq_of_lt hj], hi.2.2⟩

theorem lanesFrom_of_next {i : Nat} (hi : LanesFrom half n (j + 1) i) : LanesFrom half n j i :=
  ⟨Nat.le_of_succ_le hi.1, hi.2⟩

/-- `count` blocks from block element `k` on, all below `n`. -/
theorem fftBlocks_endsIn (wr wi : Int) (hk : k + count * (2 * half) < n + half) :
    EndsIn (Lane half n k) sp (fftBlocks wr wi half (2 * half) count k sp) := by
  induction count generalizing k sp with
  | zero => exact .refl _ sp
  | succ count ih =>
    rw [Nat.succ_mul] at hk
    exact ((butterfly_endsIn wr wi k (k + half) sp).mono fun i => lane_of_pair (by omega)).bind fun sp' =>
      (ih (by omega)).mono fun i => lane_of_nextBlock

theorem fftBlocks_endsIn_lane (wr wi : Int) (hj : j < half) :
    EndsIn (Lane half n j) sp (fftBlocks wr wi half (2 * half) (n / (2 * half)) j sp) := by
  have hblocks := Nat.div_mul_le_self n (2 * half)
  exact fftBlocks_endsIn wr wi (by omega)

theorem fftTwiddles_endsIn (wpr wpi : Int) (w : Int × Int) (hj : j + count ≤ half) :
    EndsIn (LanesFrom half n j) sp (fftTwiddles wpr wpi half (2 * half) (n / (2 * half)) count j w sp) := by
  induction count generalizing j w sp with
  | zero => exact .refl _ sp
  | succ count ih =>
    exact ((fftBlocks_endsIn_lane w.1 w.2 (by omega)).mono fun i => lanesFrom_of_lane (by omega)).bind fun sp' =>
      (ih _ (by omega)).mono fun i => lanesFrom_of_next

end

/-! ### Stages -/

/-- A stage by half its block length. -/
theorem fftStage_succ (c : Config) (n s : Nat) (sp : Spectrum) :
    fftStage c n (s + 1) sp = fftTwiddles (stageStep c (2 * 2 ^ s)).1 (stageStep c (2 * 2 ^ s)).2 (2 ^ s) (2 * 2 ^ s)
      (n / (2 * 2 ^ s)) (2 ^ s) 0 (65536, 0) sp := by
  have hhalf : 2 * 2 ^ s / 2 = 2 ^ s := Nat.mul_div_cancel_left _ two_pos
  simp only [fftStage, pow_succ', hhalf]

theorem fftStage_endsIn (c : Config) (n s : Nat) (sp : Spectrum) :
    EndsIn (· < n) sp (fftStage c n (s + 1) sp) := by
  rw [fftStage_succ]
  exact (fftTwiddles_endsIn _ _ _ (by omega)).mono fun i hi => hi.2

theorem fftStages_endsIn (c : Config) (n count s : Nat) (sp : Spectrum) :
    EndsIn (· < n) sp (fftStages c n count (s + 1) sp) := by
  induction count generalizing s sp with
  | zero => exact .refl _ sp
  | succ count ih => exact (fftStage_endsIn c n s sp).bind fun sp' => ih (s + 1) sp'

/-- Both arrays in bit-reversed order. -/
def Spectrum.reversed (m : Nat) (sp : Spectrum) : Spectrum := ⟨bitReverse m sp.re, bitReverse m sp.im⟩

theorem reversed_changesOnly (m : Nat) (sp : Spectrum) : ChangesOnly (· < 2 ^ m) sp (sp.reversed m) where
  reLength := bitReverse_length m sp.re
  imLength := bitReverse_length m sp.im
  re _ hi := bitReverse_getD_of_le _ (Nat.not_lt.mp hi)
  im _ hi := bitReverse_getD_of_le _ (Nat.not_lt.mp hi)

theorem fftRun_two_pow (c : Config) (m : Nat) (sp : Spectrum) :
    fftRun c (2 ^ m) sp = fftStages c (2 ^ m) m 1 (sp.reversed m) := by
  simp only [fftRun, Nat.log2_two_pow, Spectrum.reversed]

theorem fftRun_endsIn (c : Config) (m : Nat) (sp : Spectrum) : EndsIn (· < 2 ^ m) sp (fftRun c (2 ^ m) sp) := by
  rw [fftRun_two_pow]
  exact EndsIn.after (reversed_changesOnly m sp) (fftStages_endsIn c _ m 0 _)

/-! ### The operation -/

theorem isPow2_iff (n : Nat) : isPow2 n = true ↔ ∃ m, n = 2 ^ m := by
  rw [isPow2, beq_iff_eq]
  constructor
  · exact fun h => ⟨_, h.symm⟩
  · rintro ⟨m, rfl⟩
    rw [Nat.log2_two_pow]

section
variable {s t : State} {n : U16} {m : Nat}

theorem exec_fft_of_above (h : s.cfg.flk.fftMax < n.toNat) : exec (.fft n) s = .next (completed s) := by
  have hrun : fft n s = .ok () s := by rw [fft, bind_look, if_pos h, pure_run]
  exact complete_ok hrun

theorem exec_fft_of_not_pow (hle : n.toNat ≤ s.cfg.flk.fftMax) (hn : ∀ m, n.toNat ≠ 2 ^ m) :
    exec (.fft n) s = .next (faulted 3 n s) := by
  have hbad : (n != 0 && isPow2 n.toNat) = false := by
    rw [Bool.eq_false_iff.mpr (mt (isPow2_iff _).mp (not_exists.mpr hn)), Bool.and_false]
  have hrun : fft n s = .error ⟨.preconditionViolation, n⟩ s := by
    rw [fft, bind_look, if_neg (Nat.not_lt.mpr hle)]
    exact bind_of_error (require_bad hbad _ _) _
  exact complete_refused hrun

theorem require_fft_ok (hm : n.toNat = 2 ^ m) : require (n != 0 && isPow2 n.toNat) n s = .ok () s := by
  have hne : n ≠ 0 := by
    rintro rfl
    exact absurd hm.symm (pow_ne_zero m two_ne_zero)
  exact require_ok (by rw [bne_iff_ne.mpr hne, (isPow2_iff _).mpr ⟨m, hm⟩, Bool.and_self]) _ _

theorem exec_fft_of_ok {sp : Spectrum} (hle : n.toNat ≤ s.cfg.flk.fftMax) (hm : n.toNat = 2 ^ m)
    (h : fftRun s.cfg (2 ^ m) ⟨s.buf.re, s.buf.im⟩ = .ok sp) :
    exec (.fft n) s = .next (completed (storeSpectrum sp s)) := by
  have hrun : fft n s = .ok () (storeSpectrum sp s) := by
    rw [fft, bind_look, if_neg (Nat.not_lt.mpr hle)]
    refine (bind_of_ok (require_fft_ok hm) _).trans ?_
    rw [bind_look, hm, h]
    rfl
  exact complete_ok hrun

theorem exec_fft_of_error {i : Nat} {sp : Spectrum} (hle : n.toNat ≤ s.cfg.flk.fftMax) (hm : n.toNat = 2 ^ m)
    (h : fftRun s.cfg (2 ^ m) ⟨s.buf.re, s.buf.im⟩ = .error (i, sp)) :
    exec (.fft n) s = .next (faulted 5 (BitVec.ofNat 16 i) (storeSpectrum sp s)) := by
  have hrun : fft n s = .error ⟨.arithOverflow, BitVec.ofNat 16 i⟩ (storeSpectrum sp s) := by
    rw [fft, bind_look, if_neg (Nat.not_lt.mpr hle)]
    refine (bind_of_ok (require_fft_ok hm) _).trans ?_
    rw [bind_look, hm, h]
    rfl
  exact complete_fault hrun

/-- Everything FFT can do: it ends with the arrays `sp`, of which only elements below `n` differ from the old ones,
and an overflow reports one of these. -/
theorem exec_fft_cases (h : exec (.fft n) s = .next t) :
    ∃ sp status info, t = (if status = 0 then completed else faulted status info) (storeSpectrum sp s) ∧
      (status = 5 → info.toNat < n.toNat) ∧ ChangesOnly (· < n.toNat) ⟨s.buf.re, s.buf.im⟩ sp := by
  by_cases hle : n.toNat ≤ s.cfg.flk.fftMax
  · by_cases hpow : ∃ m, n.toNat = 2 ^ m
    · obtain ⟨m, hm⟩ := hpow
      have hends : EndsIn (· < n.toNat) ⟨s.buf.re, s.buf.im⟩ (fftRun s.cfg (2 ^ m) ⟨s.buf.re, s.buf.im⟩) := by
        rw [hm]
        exact fftRun_endsIn s.cfg m _
      cases hrun : fftRun s.cfg (2 ^ m) ⟨s.buf.re, s.buf.im⟩ with
      | ok sp =>
        rw [exec_fft_of_ok hle hm hrun] at h
        obtain rfl := Host.Outcome.next.inj h
        rw [hrun] at hends
        exact ⟨sp, 0, 0, rfl, fun h5 => absurd h5 (by decide), hends⟩
      | error e =>
        obtain ⟨i, sp⟩ := e
        rw [exec_fft_of_error hle hm hrun] at h
        obtain rfl := Host.Outcome.next.inj h
        rw [hrun] at hends
        obtain ⟨hi, hsp⟩ := hends
        have hlt := n.isLt
        refine ⟨sp, 5, BitVec.ofNat 16 i, rfl, fun _ => ?_, hsp⟩
        rw [BitVec.toNat_ofNat, Nat.mod_eq_of_lt (by omega)]
        exact hi
    · rw [exec_fft_of_not_pow hle (not_exists.mp hpow)] at h
      obtain rfl := Host.Outcome.next.inj h
      exact ⟨_, 3, n, rfl, fun h5 => absurd h5 (by decide), .refl _ _⟩
  · rw [exec_fft_of_above (Nat.not_le.mp hle)] at h
    obtain rfl := Host.Outcome.next.inj h
    exact ⟨_, 0, 0, rfl, fun h5 => absurd h5 (by decide), .refl _ _⟩

end

end Sys2Proof.Machine
end

section
/-! What the stages of an FFT compute (41_dsp_kernels.md R135): an element is a complex number; a stage takes each pair
`u`, `v` of a block to `u + t` and `u - t` with `t` the product of `v` and the running twiddle. -/

namespace Sys2Proof.Machine

/-- The complex element at index `i`, real part first. -/
def Spectrum.point (sp : Spectrum) (i : Nat) : Int × Int := (elem sp.re i, elem sp.im i)

/-- The Q16 product of a twiddle and an element, shifted right by 16. -/
def twiddled (w z : Int × Int) : Int × Int :=
  ((w.1 * z.1 - w.2 * z.2) / 65536, (w.1 * z.2 + w.2 * z.1) / 65536)

/-- The elements at `k` and `p` after the butterfly with twiddle `w`, from those before it. -/
def Combines (w : Int × Int) (k p : Nat) (sp sp' : Spectrum) : Prop :=
  sp'.point k = sp.point k + twiddled w (sp.point p) ∧ sp'.point p = sp.point k - twiddled w (sp.point p)

theorem ChangesOnly.point {P : Nat → Prop} {sp sp' : Spectrum} (h : ChangesOnly P sp sp') {i : Nat} (hi : ¬ P i) :
    sp'.point i = sp.point i := by
  simp only [Spectrum.point, elem, h.re i hi, h.im i hi]

theorem elem_set_self {l : List U64} {k : Nat} {v : Int} (hk : k < l.length) (hv : fitsI64 v = true) :
    elem (l.set k (BitVec.ofInt 64 v)) k = v := by
  rw [elem, getD_set, if_pos ⟨rfl, hk⟩, ofInt_toInt_of_fits hv]

theorem elem_set_of_ne {l : List U64} {k i : Nat} (v : U64) (h : k ≠ i) : elem (l.set k v) i = elem l i := by
  rw [elem, getD_set, if_neg fun hh => h hh.1, elem]

theorem asr_sixteen (v : Int) : asr v 16 = v / 65536 := asr_eq v 16

/-- Both arrays have at least `n` elements. -/
def Spectrum.Covers (n : Nat) (sp : Spectrum) : Prop := n ≤ sp.re.length ∧ n ≤ sp.im.length

theorem Spectrum.Covers.of_changes {P : Nat → Prop} {n : Nat} {sp sp' : Spectrum} (hn : sp.Covers n)
    (h : ChangesOnly P sp sp') : sp'.Covers n := by
  unfold Spectrum.Covers
  rwa [h.reLength, h.imLength]

/-- The spectrum a part of an FFT that returns has changed. -/
theorem EndsIn.of_ok {P : Nat → Prop} {sp sp' : Spectrum} {r : SpectrumResult} (h : EndsIn P sp r)
    (hr : r = .ok sp') : ChangesOnly P sp sp' := by
  rwa [hr] at h

theorem butterfly_combines {w : Int × Int} {k p n : Nat} {sp sp' : Spectrum} (hn : sp.Covers n) (hkp : k < p)
    (hp : p < n) (h : butterfly w.1 w.2 k p sp = .ok sp') : Combines w k p sp sp' := by
  obtain ⟨hre, him⟩ := hn
  obtain ⟨⟨hreP, himP, hreK, himK⟩, rfl⟩ := butterfly_ok h
  simp only [asr_sixteen] at hreP himP hreK himK ⊢
  refine ⟨Prod.ext ?_ ?_, Prod.ext ?_ ?_⟩
  · exact elem_set_self (by rw [List.length_set]; omega) hreK
  · exact elem_set_self (by rw [List.length_set]; omega) himK
  · exact (elem_set_of_ne _ hkp.ne).trans (elem_set_self (by omega) hreP)
  · exact (elem_set_of_ne _ hkp.ne).trans (elem_set_self (by omega) himP)

section
variable {w : Int × Int} {k p : Nat} {sp sp1 sp' : Spectrum} {P : Nat → Prop}

/-- What was done to a pair before elements elsewhere changed stands after it. -/
theorem Combines.then_changes (h : Combines w k p sp sp1) (hc : ChangesOnly P sp1 sp') (hk : ¬ P k) (hp : ¬ P p) :
    Combines w k p sp sp' := by
  unfold Combines
  rwa [hc.point hk, hc.point hp]

/-- What is done to a pair after elements elsewhere changed starts from the old elements. -/
theorem Combines.after_changes (hc : ChangesOnly P sp sp1) (h : Combines w k p sp1 sp') (hk : ¬ P k) (hp : ¬ P p) :
    Combines w k p sp sp' := by
  unfold Combines
  rwa [← hc.point hk, ← hc.point hp]

end

/-! ### The loops of a stage -/

section
variable {half n k j count : Nat} {sp sp' : Spectrum}

theorem fftBlocks_combines {w : Int × Int} (hhalf : 0 < half) (hn : sp.Covers n)
    (hk : k + count * (2 * half) < n + half) (h : fftBlocks w.1 w.2 half (2 * half) count k sp = .ok sp') :
    ∀ block < count, Combines w (k + block * (2 * half)) (k + block * (2 * half) + half) sp sp' := by
  induction count generalizing k sp with
  | zero => exact fun block hb => absurd hb (Nat.not_lt_zero _)
  | succ count ih =>
    rw [Nat.succ_mul] at hk
    obtain ⟨sp1, hfirst, hrest⟩ := spectrum_bind_ok.mp h
    have hchange := (butterfly_endsIn w.1 w.2 k (k + half) sp).of_ok hfirst
    have hchanges := (fftBlocks_endsIn (n := n) w.1 w.2 (by omega)).of_ok hrest
    intro block hb
    cases block with
    | zero =>
      rw [Nat.zero_mul, Nat.add_zero]
      refine (butterfly_combines hn (by omega) (by omega) hfirst).then_changes hchanges ?_ ?_
      all_goals
        rintro ⟨-, hle, -⟩
        omega
    | succ block =>
      have hnext := ih (hn.of_changes hchange) (by omega) hrest block (by omega)
      have hindex : k + (block + 1) * (2 * half) = k + 2 * half + block * (2 * half) := by ring
      rw [hindex]
      exact hnext.after_changes hchange (by omega) (by omega)

/-- The pairs of twiddle `j` lie in lane `j`. -/
theorem pair_mod {i block : Nat} (hj : j < half)
    (hi : i = block * (2 * half) + j ∨ i = block * (2 * half) + j + half) : i % half = j := by
  have hblock : block * (2 * half) + j = half * (2 * block) + j := by ring
  rcases hi with rfl | rfl
  · rw [hblock, Nat.mul_add_mod, Nat.mod_eq_of_lt hj]
  · rw [Nat.add_mod_right, hblock, Nat.mul_add_mod, Nat.mod_eq_of_lt hj]

/-- `T j`, `T (j + 1)`, … are the running twiddles of the loop. -/
theorem fftTwiddles_combines {T : Nat → Int × Int} {wpr wpi : Int} (hT : ∀ i, T (i + 1) = twiddleNext wpr wpi (T i))
    (hn : sp.Covers n) (hj : j + count ≤ half)
    (h : fftTwiddles wpr wpi half (2 * half) (n / (2 * half)) count j (T j) sp = .ok sp') :
    ∀ i, j ≤ i → i < j + count → ∀ block < n / (2 * half),
      Combines (T i) (block * (2 * half) + i) (block * (2 * half) + i + half) sp sp' := by
  induction count generalizing j sp with
  | zero => exact fun i h1 h2 => absurd h1 (by omega)
  | succ count ih =>
    obtain ⟨sp1, hfirst, hrest⟩ := spectrum_bind_ok.mp h
    rw [← hT] at hrest
    have hchange := (fftBlocks_endsIn_lane (n := n) (T j).1 (T j).2 (by omega)).of_ok hfirst
    have hchanges := (fftTwiddles_endsIn wpr wpi (T (j + 1)) (by omega)).of_ok hrest
    intro i h1 h2 block hb
    have hlane (x : Nat) (hx : x = block * (2 * half) + i ∨ x = block * (2 * half) + i + half) : x % half = i :=
      pair_mod (by omega) hx
    by_cases hij : i = j
    · subst hij
      have hblocks := Nat.div_mul_le_self n (2 * half)
      have hpair := fftBlocks_combines (by omega) hn (by omega) hfirst block hb
      rw [Nat.add_comm i] at hpair
      refine hpair.then_changes hchanges ?_ ?_
      all_goals
        rintro ⟨hle, -⟩
        rw [hlane _ (by simp)] at hle
        omega
    · have hpair := ih (hn.of_changes hchange) (by omega) hrest i (by omega) (by omega) block hb
      refine hpair.after_changes hchange ?_ ?_
      all_goals
        rintro ⟨hmod, -⟩
        rw [hlane _ (by simp), Nat.mod_eq_of_lt (by omega)] at hmod
        exact hij hmod

end

/-! ### Stages (R135) -/

theorem runningTwiddle_succ (c : Config) (len j : Nat) :
    runningTwiddle c len (j + 1) = twiddleNext (stageStep c len).1 (stageStep c len).2 (runningTwiddle c len j) := by
  simp only [twiddleNext, asr_sixteen]
  rfl

/-- A stage of half block length `2^s`: every pair of every block is combined under its running twiddle. -/
def StageCombines (c : Config) (n s : Nat) (sp sp' : Spectrum) : Prop :=
  ∀ block < n / (2 * 2 ^ s), ∀ j < 2 ^ s,
    Combines (runningTwiddle c (2 * 2 ^ s) j) (block * (2 * 2 ^ s) + j) (block * (2 * 2 ^ s) + j + 2 ^ s) sp sp'

section
variable {c : Config} {n s count : Nat} {sp sp' : Spectrum}

theorem StageCombines.stageTakes (h : StageCombines c n s sp sp') :
    stageTakes c n (2 ^ (s + 1)) sp.re sp.im sp'.re sp'.im := by
  have hhalf : 2 * 2 ^ s / 2 = 2 ^ s := Nat.mul_div_cancel_left _ two_pos
  intro block hb j hj
  rw [pow_succ'] at hb hj ⊢
  rw [hhalf] at hj ⊢
  obtain ⟨hk, hp⟩ := h block hb j hj
  exact ⟨congrArg Prod.fst hk, congrArg Prod.snd hk, congrArg Prod.fst hp, congrArg Prod.snd hp⟩

theorem fftStage_combines (hn : sp.Covers n) (h : fftStage c n (s + 1) sp = .ok sp') : StageCombines c n s sp sp' := by
  rw [fftStage_succ] at h
  intro block hb j hj
  exact fftTwiddles_combines (runningTwiddle_succ c _) hn (by omega) h j (by omega) (by omega) block hb

/-- A sequence of spectra with one put in front. -/
def prependSpectrum (sp : Spectrum) (f : Nat → Spectrum) : Nat → Spectrum
  | 0 => sp
  | k + 1 => f k

/-- The spectra between the stages of a run that completes. -/
theorem fftStages_combines (hn : sp.Covers n) (h : fftStages c n count (s + 1) sp = .ok sp') :
    ∃ f : Nat → Spectrum, f 0 = sp ∧ f count = sp' ∧ ∀ k < count, StageCombines c n (s + k) (f k) (f (k + 1)) := by
  induction count generalizing s sp with
  | zero => exact ⟨fun _ => sp, rfl, Except.ok.inj h, fun k hk => absurd hk (Nat.not_lt_zero k)⟩
  | succ count ih =>
    obtain ⟨sp1, hfirst, hrest⟩ := spectrum_bind_ok.mp h
    obtain ⟨f, hf0, hfc, hstage⟩ := ih (hn.of_changes ((fftStage_endsIn c n s sp).of_ok hfirst)) hrest
    refine ⟨prependSpectrum sp f, rfl, hfc, fun k hk => ?_⟩
    cases k with
    | zero =>
      simp only [prependSpectrum, hf0]
      exact fftStage_combines hn hfirst
    | succ k =>
      have hindex : s + (k + 1) = s + 1 + k := by omega
      rw [hindex]
      exact hstage k (by omega)

end

theorem fftRun_combines {c : Config} {m : Nat} {sp sp' : Spectrum} (hn : sp.Covers (2 ^ m))
    (h : fftRun c (2 ^ m) sp = .ok sp') :
    ∃ f : Nat → Spectrum, f 0 = sp.reversed m ∧ f m = sp' ∧
      ∀ k < m, StageCombines c (2 ^ m) k (f k) (f (k + 1)) := by
  rw [fftRun_two_pow] at h
  obtain ⟨f, hf0, hfm, hstage⟩ := fftStages_combines (s := 0) (hn.of_changes (reversed_changesOnly m sp)) h
  exact ⟨f, hf0, hfm, fun k hk => by simpa only [Nat.zero_add] using hstage k hk⟩

/-- A legal state holds the elements of a transform that is not too long. -/
theorem covers_of_legal {s : State} (hs : s.Legal) {n : Nat} (hn : n ≤ s.cfg.flk.fftMax) :
    Spectrum.Covers n ⟨s.buf.re, s.buf.im⟩ := ⟨by rwa [hs.buf.re], by rwa [hs.buf.im]⟩

/-- An FFT of a legal power-of-two size that ended with status 0 has run all its stages. -/
theorem fftRun_ok_of_lastErr {s t : State} {n : U16} {m : Nat} (hm : n.toNat = 2 ^ m)
    (hle : n.toNat ≤ s.cfg.flk.fftMax) (h : exec (.fft n) s = .next t) (h0 : t.dc.lastErr = 0) :
    ∃ sp, fftRun s.cfg (2 ^ m) ⟨s.buf.re, s.buf.im⟩ = .ok sp ∧ t = completed (storeSpectrum sp s) := by
  cases hrun : fftRun s.cfg (2 ^ m) ⟨s.buf.re, s.buf.im⟩ with
  | ok sp =>
    rw [exec_fft_of_ok hle hm hrun] at h
    exact ⟨sp, rfl, (Host.Outcome.next.inj h).symm⟩
  | error e =>
    rw [exec_fft_of_error hle hm hrun] at h
    obtain rfl := Host.Outcome.next.inj h
    exact absurd h0 (by decide : (5 : Byte) ≠ 0)

/-- Settles O33: every loop of FFT touches only its own indices below n; the spectra between the stages of a run that
completes are the ones asked for. -/
theorem transformTouchesItsElements : Obligations.TransformTouchesItsElements := by
  refine ⟨fun s t n h => ?frame, fun s t n m hs hm hle h h0 => ?stages⟩
  case frame =>
    obtain ⟨sp, status, info, rfl, h5, hsp⟩ := exec_fft_cases h
    have hbuf : ((if status = 0 then completed else faulted status info) (storeSpectrum sp s)).buf =
        { s.buf with re := sp.re, im := sp.im } := by
      split <;> rfl
    rw [hbuf]
    exact ⟨⟨status, info, rfl, h5⟩, hsp.reLength, hsp.imLength,
      fun i hi => ⟨hsp.re i (Nat.not_lt.mpr hi), hsp.im i (Nat.not_lt.mpr hi)⟩⟩
  case stages =>
    obtain ⟨sp, hrun, rfl⟩ := fftRun_ok_of_lastErr hm hle h h0
    have hcovers := covers_of_legal hs hle
    rw [hm] at hcovers ⊢
    obtain ⟨f, hf0, hfm, hstage⟩ := fftRun_combines hcovers hrun
    refine ⟨fun k => (f k).re, fun k => (f k).im, fun i hi => ?_, fun k hk => (hstage k hk).stageTakes, fun i _ => ?_⟩
    · simp only [hf0]
      exact ⟨bitReverse_getD_of_lt hcovers.1 hi, bitReverse_getD_of_lt hcovers.2 hi⟩
    · simp only [hfm]
      exact ⟨rfl, rfl⟩

end Sys2Proof.Machine
end

section
/-! The FFT with bounded elements (41_dsp_kernels.md R136). While the two parts of every twiddle add up to at most 1.5
in Q16, a butterfly on elements within `2 e` needs at most 2^63 for its sums and leaves elements within `5 e`. -/

namespace Sys2Proof.Machine

/-- Both parts have magnitude at most `b`. -/
def Within (b : Int) (z : Int × Int) : Prop := (-b ≤ z.1 ∧ z.1 ≤ b) ∧ (-b ≤ z.2 ∧ z.2 ≤ b)

theorem Within.mono {b b' : Int} {z : Int × Int} (h : Within b z) (hb : b ≤ b') : Within b' z := by
  obtain ⟨⟨h1, h2⟩, h3, h4⟩ := h
  exact ⟨⟨by omega, by omega⟩, by omega, by omega⟩

/-- The magnitudes of the parts of a Q16 twiddle add up to at most 1.5. -/
abbrev TwiddleSmall (w : Int × Int) : Prop := w.1.natAbs + w.2.natAbs ≤ 98304

theorem abs_sum_le {a b x y m : Int} (hab : a.natAbs + b.natAbs ≤ 98304) (hx : |x| ≤ m) (hy : |y| ≤ m) :
    |a * x + b * y| ≤ 98304 * m := by
  have hm : 0 ≤ m := (abs_nonneg x).trans hx
  have hsum : |a| + |b| ≤ 98304 := by rw [Int.abs_eq_natAbs, Int.abs_eq_natAbs]; omega
  calc |a * x + b * y| ≤ |a * x| + |b * y| := abs_add_le _ _
    _ = |a| * |x| + |b| * |y| := by rw [abs_mul, abs_mul]
    _ ≤ |a| * m + |b| * m :=
      add_le_add (mul_le_mul_of_nonneg_left hx (abs_nonneg a)) (mul_le_mul_of_nonneg_left hy (abs_nonneg b))
    _ = (|a| + |b|) * m := by ring
    _ ≤ 98304 * m := mul_le_mul_of_nonneg_right hsum hm

/-- The exact product of a twiddle and an element, before the shift. -/
theorem product_within {b : Int} {w z : Int × Int} (hw : TwiddleSmall w) (hz : Within b z) :
    Within (98304 * b) (w.1 * z.1 - w.2 * z.2, w.1 * z.2 + w.2 * z.1) := by
  have h1 : |z.1| ≤ b := abs_le.mpr hz.1
  have h2 : |z.2| ≤ b := abs_le.mpr hz.2
  have hre : |w.1 * z.1 + w.2 * -z.2| ≤ 98304 * b := abs_sum_le hw h1 (by rwa [abs_neg])
  rw [mul_neg, ← sub_eq_add_neg] at hre
  exact ⟨abs_le.mp hre, abs_le.mp (abs_sum_le hw h2 h1)⟩

theorem twiddled_within {e : Int} {w z : Int × Int} (hw : TwiddleSmall w) (hz : Within (2 * e) z) :
    Within (3 * e) (twiddled w z) := by
  obtain ⟨⟨h1, h2⟩, h3, h4⟩ := product_within hw hz
  simp only at h1 h2 h3 h4
  simp only [Within, twiddled]
  omega

theorem Within.add {a b : Int} {y z : Int × Int} (hy : Within a y) (hz : Within b z) : Within (a + b) (y + z) := by
  obtain ⟨⟨h1, h2⟩, h3, h4⟩ := hy
  obtain ⟨⟨h5, h6⟩, h7, h8⟩ := hz
  simp only [Within, Prod.fst_add, Prod.snd_add]
  omega

theorem Within.sub {a b : Int} {y z : Int × Int} (hy : Within a y) (hz : Within b z) : Within (a + b) (y - z) := by
  obtain ⟨⟨h1, h2⟩, h3, h4⟩ := hy
  obtain ⟨⟨h5, h6⟩, h7, h8⟩ := hz
  simp only [Within, Prod.fst_sub, Prod.snd_sub]
  omega

/-- A number of magnitude at most 1.5 * 2^62 fits. -/
theorem fits_of_within {b : Int} {z : Int × Int} (hz : Within b z) (hb : b ≤ 98304 * 2 ^ 46) :
    fitsI64 z.1 = true ∧ fitsI64 z.2 = true := by
  obtain ⟨⟨h1, h2⟩, h3, h4⟩ := hz
  rw [fitsI64_iff, fitsI64_iff]
  omega

theorem Combines.within {e : Int} {w : Int × Int} {k p : Nat} {sp sp' : Spectrum} (h : Combines w k p sp sp')
    (hw : TwiddleSmall w) (hk : Within (2 * e) (sp.point k)) (hp : Within (2 * e) (sp.point p)) :
    Within (5 * e) (sp'.point k) ∧ Within (5 * e) (sp'.point p) := by
  have ht := twiddled_within hw hp
  have hsum : 2 * e + 3 * e = 5 * e := by ring
  rw [h.1, h.2, ← hsum]
  exact ⟨hk.add ht, hk.sub ht⟩

/-! ### Parts of an FFT that return -/

/-- Elements a butterfly with a small twiddle can take. -/
abbrev Safe (z : Int × Int) : Prop := Within (2 ^ 46) z

theorem butterfly_returns {w : Int × Int} {k p : Nat} {sp : Spectrum} (hw : TwiddleSmall w) (hk : Safe (sp.point k))
    (hp : Safe (sp.point p)) : ∃ sp', butterfly w.1 w.2 k p sp = .ok sp' := by
  obtain ⟨hsumR, hsumI⟩ := fits_of_within (product_within hw hp) le_rfl
  have ht : Within (3 * 2 ^ 45) (twiddled w (sp.point p)) := twiddled_within hw hp
  obtain ⟨haddR, haddI⟩ := fits_of_within (Within.add hk ht) (by norm_num)
  obtain ⟨hsubR, hsubI⟩ := fits_of_within (Within.sub hk ht) (by norm_num)
  simp only [Spectrum.point, twiddled, Prod.fst_add, Prod.snd_add, Prod.fst_sub, Prod.snd_sub]
    at hsumR hsumI haddR haddI hsubR hsubI
  simp only [butterfly, hsumR, hsumI, Bool.and_self, if_true, spectrum_bind_ok, storeRe_ok, storeIm_ok, asr_sixteen]
  exact ⟨_, _, ⟨_, ⟨hsubR, rfl⟩, hsubI, rfl⟩, _, ⟨haddR, rfl⟩, haddI, rfl⟩

section
variable {half n k j count : Nat} {sp : Spectrum}

theorem fftBlocks_returns {w : Int × Int} (hw : TwiddleSmall w) (hhalf : 0 < half)
    (hk : k + count * (2 * half) < n + half) (hs : ∀ i, Lane half n k i → Safe (sp.point i)) :
    ∃ sp', fftBlocks w.1 w.2 half (2 * half) count k sp = .ok sp' := by
  induction count generalizing k sp with
  | zero => exact ⟨sp, rfl⟩
  | succ count ih =>
    rw [Nat.succ_mul] at hk
    obtain ⟨sp1, hfirst⟩ := butterfly_returns hw (hs k (lane_of_pair (by omega) (.inl rfl)))
      (hs (k + half) (lane_of_pair (by omega) (.inr rfl)))
    have hchange := (butterfly_endsIn w.1 w.2 k (k + half) sp).of_ok hfirst
    obtain ⟨sp', hrest⟩ := ih (k := k + 2 * half) (sp := sp1) (by omega) fun i hi => by
      have hle := hi.2.1
      rw [hchange.point (by omega)]
      exact hs i (lane_of_nextBlock hi)
    exact ⟨sp', spectrum_bind_ok.mpr ⟨sp1, hfirst, hrest⟩⟩

theorem fftTwiddles_returns {T : Nat → Int × Int} {wpr wpi : Int} (hT : ∀ i, T (i + 1) = twiddleNext wpr wpi (T i))
    (hw : ∀ i < half, TwiddleSmall (T i)) (hj : j + count ≤ half)
    (hs : ∀ i, LanesFrom half n j i → Safe (sp.point i)) :
    ∃ sp', fftTwiddles wpr wpi half (2 * half) (n / (2 * half)) count j (T j) sp = .ok sp' := by
  induction count generalizing j sp with
  | zero => exact ⟨sp, rfl⟩
  | succ count ih =>
    have hblocks := Nat.div_mul_le_self n (2 * half)
    obtain ⟨sp1, hfirst⟩ := fftBlocks_returns (n := n) (count := n / (2 * half)) (hw j (by omega)) (by omega)
      (by omega) fun i hi => hs i (lanesFrom_of_lane (by omega) hi)
    have hchange := (fftBlocks_endsIn_lane (n := n) (T j).1 (T j).2 (by omega)).of_ok hfirst
    obtain ⟨sp', hrest⟩ := ih (j := j + 1) (sp := sp1) (by omega) fun i hi => by
      rw [hchange.point]
      · exact hs i (lanesFrom_of_next hi)
      · rintro ⟨hmod, -⟩
        have hle := hi.1
        rw [hmod, Nat.mod_eq_of_lt (by omega)] at hle
        omega
    rw [hT] at hrest
    exact ⟨sp', spectrum_bind_ok.mpr ⟨sp1, hfirst, hrest⟩⟩

end

/-! ### Stages -/

/-- The running twiddles of the stage of half block length `half` are small. -/
def StageSmall (c : Config) (half : Nat) : Prop := ∀ j < half, TwiddleSmall (runningTwiddle c (2 * half) j)

section
variable {c : Config} {n s m count : Nat} {e : Int} {sp sp' : Spectrum}

theorem fftStage_returns (hw : StageSmall c (2 ^ s)) (hs : ∀ i < n, Safe (sp.point i)) :
    ∃ sp', fftStage c n (s + 1) sp = .ok sp' := by
  rw [fftStage_succ]
  exact fftTwiddles_returns (T := runningTwiddle c (2 * 2 ^ s)) (runningTwiddle_succ c _) hw (by omega)
    fun i hi => hs i hi.2

/-- Every index below `n` is in a pair: it is the first or the second of block `i / len`. -/
theorem exists_pair {half i : Nat} (hdvd : 2 * half ∣ n) (hi : i < n) :
    ∃ block < n / (2 * half), ∃ j < half, i = block * (2 * half) + j ∨ i = block * (2 * half) + j + half := by
  have hpos : 0 < 2 * half := Nat.pos_of_dvd_of_pos hdvd (by omega)
  have hdiv := Nat.div_add_mod' i (2 * half)
  have hmod := Nat.mod_lt i hpos
  refine ⟨i / (2 * half), Nat.div_lt_div_of_lt_of_dvd hdvd hi, ?_⟩
  by_cases hlow : i % (2 * half) < half
  · exact ⟨i % (2 * half), hlow, .inl hdiv.symm⟩
  · exact ⟨i % (2 * half) - half, by omega, .inr (by omega)⟩

theorem fftStage_within (hn : sp.Covers n) (hdvd : 2 * 2 ^ s ∣ n) (hw : StageSmall c (2 ^ s))
    (hs : ∀ i < n, Within (2 * e) (sp.point i)) (h : fftStage c n (s + 1) sp = .ok sp') :
    ∀ i < n, Within (5 * e) (sp'.point i) := by
  intro i hi
  obtain ⟨block, hb, j, hj, hpair⟩ := exists_pair hdvd hi
  have hlast : (block + 1) * (2 * 2 ^ s) ≤ n := (Nat.le_div_iff_mul_le (by positivity)).mp hb
  rw [Nat.succ_mul] at hlast
  obtain ⟨hk, hp⟩ := (fftStage_combines hn h block hb j hj).within (hw j hj) (hs _ (by omega)) (hs _ (by omega))
  rcases hpair with rfl | rfl
  · exact hk
  · exact hp

/-- Each stage multiplies the bound by 5/2, and every stage starts from safe elements. -/
theorem fftStages_returns (he : 0 ≤ e) (hmax : 2 * (5 ^ count * e) ≤ 5 * 2 ^ 46) (hn : sp.Covers n)
    (hw : ∀ k < s + count, StageSmall c (2 ^ k)) (hdvd : ∀ k < s + count, 2 * 2 ^ k ∣ n)
    (hs : ∀ i < n, Within (2 ^ count * e) (sp.point i)) :
    ∃ sp', fftStages c n count (s + 1) sp = .ok sp' ∧ ∀ i < n, Within (5 ^ count * e) (sp'.point i) := by
  induction count generalizing s e sp with
  | zero => exact ⟨sp, rfl, hs⟩
  | succ count ih =>
    have hpow : (2 : Int) ^ count * e ≤ 5 ^ count * e :=
      mul_le_mul_of_nonneg_right (pow_le_pow_left₀ (by norm_num) (by norm_num) _) he
    have hgrow : (5 : Int) ^ (count + 1) * e = 5 * (5 ^ count * e) := by ring
    have hhalve : (2 : Int) ^ (count + 1) * e = 2 * (2 ^ count * e) := by ring
    rw [hhalve] at hs
    rw [hgrow] at hmax
    have hsmall := hw s (by omega)
    obtain ⟨sp1, hfirst⟩ := fftStage_returns hsmall fun i hi => (hs i hi).mono (by omega)
    have hnext := fftStage_within hn (hdvd s (by omega)) hsmall hs hfirst
    have hregroup : (5 : Int) * (2 ^ count * e) = 2 ^ count * (5 * e) := by ring
    rw [hregroup] at hnext
    have hregroup' : (5 : Int) ^ count * (5 * e) = 5 ^ (count + 1) * e := by ring
    obtain ⟨sp', hrest, hbound⟩ := ih (s := s + 1) (e := 5 * e) (by omega) (by rw [hregroup', hgrow]; exact hmax)
      (hn.of_changes ((fftStage_endsIn c n s sp).of_ok hfirst)) (fun k hk => hw k (by omega))
      (fun k hk => hdvd k (by omega)) hnext
    rw [hregroup'] at hbound
    exact ⟨sp', spectrum_bind_ok.mpr ⟨sp1, hfirst, hrest⟩, hbound⟩

theorem reversed_point (hn : sp.Covers (2 ^ m)) {i : Nat} (hi : i < 2 ^ m) :
    (sp.reversed m).point i = sp.point (bitrev i m) :=
  Prod.ext (congrArg BitVec.toInt (bitReverse_getD_of_lt hn.1 hi)) (congrArg BitVec.toInt (bitReverse_getD_of_lt hn.2 hi))

/-- A transform of `2^m` elements within `2^m e` leaves them within `5^m e`. -/
theorem fftRun_returns (he : 0 ≤ e) (hmax : 2 * (5 ^ m * e) ≤ 5 * 2 ^ 46) (hn : sp.Covers (2 ^ m))
    (hw : ∀ k < m, StageSmall c (2 ^ k)) (hs : ∀ i < 2 ^ m, Within (2 ^ m * e) (sp.point i)) :
    ∃ sp', fftRun c (2 ^ m) sp = .ok sp' ∧ ∀ i < 2 ^ m, Within (5 ^ m * e) (sp'.point i) := by
  rw [fftRun_two_pow]
  refine fftStages_returns (s := 0) he hmax (hn.of_changes (reversed_changesOnly m sp))
    (fun k hk => hw k (by omega)) (fun k hk => ?_) fun i hi => ?_
  · rw [← pow_succ']
    exact pow_dvd_pow 2 (by omega)
  · rw [reversed_point hn hi]
    exact hs _ (bitrev_lt i m)

end

/-! ### The default tables (48_tables.md R245) -/

/-- The running twiddles of a stage in order, each from the one before it. -/
def stageTwiddles (c : Config) (len : Nat) : List (Int × Int) :=
  List.iterate (twiddleNext (stageStep c len).1 (stageStep c len).2) (65536, 0) (len / 2)

theorem runningTwiddle_mem (c : Config) {half j : Nat} (hj : j < half) :
    runningTwiddle c (2 * half) j ∈ stageTwiddles c (2 * half) := by
  have hiterate : runningTwiddle c (2 * half) j =
      (twiddleNext (stageStep c (2 * half)).1 (stageStep c (2 * half)).2)^[j] (65536, 0) := by
    clear hj
    induction j with
    | zero => rfl
    | succ j ih => rw [runningTwiddle_succ, ih, Function.iterate_succ_apply']
  exact List.mem_iterate.mpr ⟨j, by omega, hiterate⟩

/-- The largest sum of magnitudes is 92721, in the stage of block length 512. -/
theorem stageTwiddles_cfgRef_small : ∀ k < 9, ∀ w ∈ stageTwiddles cfgRef (2 * 2 ^ k), TwiddleSmall w := by
  decide +kernel

section
variable {c : Config} (hcos : c.cosTab = cosTabDefault) (hsin : c.sinTab = sinTabDefault)
include hcos hsin

theorem stageStep_of_default (len : Nat) : stageStep c len = stageStep cfgRef len := by
  rw [stageStep, stageStep, hcos, hsin]
  rfl

theorem stageSmall_of_default {k : Nat} (hk : k < 9) : StageSmall c (2 ^ k) := by
  intro j hj
  have hmem := runningTwiddle_mem c hj
  rw [stageTwiddles, stageStep_of_default hcos hsin] at hmem
  exact stageTwiddles_cfgRef_small k hk _ hmem

end

/-- The first stage has the twiddle 1.0 only, whatever the tables. -/
theorem stageSmall_first (c : Config) : StageSmall c (2 ^ 0) := by
  intro j hj
  obtain rfl : j = 0 := by omega
  exact (by decide : TwiddleSmall (65536, 0))

theorem two_pow_le_512 {m : Nat} (h : 2 ^ m ≤ 512) : m ≤ 9 :=
  (Nat.pow_le_pow_iff_right (by decide)).mp (h.trans_eq (by decide : 512 = 2 ^ 9))

/-- Settles O34: nine stages at most, each of which multiplies the bound by at most 5/2. -/
theorem transformDoesNotOverflow : Obligations.TransformDoesNotOverflow := by
  intro s n m hs hcos hsin hm hle hb
  obtain ⟨-, -, h512, -⟩ := configOk_sizes hs.cfg
  have hm9 : m ≤ 9 := two_pow_le_512 (by omega)
  have hcovers := covers_of_legal hs hle
  rw [hm] at hb hcovers ⊢
  have hstart : (2 : Int) ^ m * 2 ^ (32 - m) = 2 ^ 32 := by rw [← pow_add]; congr 1; omega
  have hend : (5 : Int) ^ m * 2 ^ (32 - m) ≤ 2 ^ 44 := by interval_cases m <;> norm_num
  obtain ⟨sp, hrun, hbound⟩ := fftRun_returns (e := 2 ^ (32 - m)) (by positivity) (by omega) hcovers
    (fun k hk => stageSmall_of_default hcos hsin (by omega)) fun i hi => by
      rw [hstart]
      exact ⟨hb _ (by simp) i hi, hb _ (by simp) i hi⟩
  refine ⟨sp.re, sp.im, exec_fft_of_ok hle hm hrun, fun l hl i hi => ?_⟩
  obtain ⟨hre, him⟩ := (hbound i hi).mono hend
  simp only [List.mem_cons, List.not_mem_nil, or_false] at hl
  rcases hl with rfl | rfl
  · exact hre
  · exact him

end Sys2Proof.Machine
end

section
/-! The transforms of one, two and four elements (41_dsp_kernels.md R135): with twiddles 1.0 and -i the stages are exact,
so nothing is lost in the shifts. -/

namespace Sys2Proof.Machine

theorem twiddled_one (z : Int × Int) : twiddled (65536, 0) z = z := by
  apply Prod.ext <;> simp only [twiddled] <;> omega

/-- The product with -i. -/
theorem twiddled_negI (z : Int × Int) : twiddled (0, -65536) z = (z.2, -z.1) := by
  apply Prod.ext <;> simp only [twiddled] <;> omega

/-- A pair whose twiddle is 1.0 becomes its sum and its difference. -/
theorem Combines.of_one {k p : Nat} {sp sp' : Spectrum} (h : Combines (65536, 0) k p sp sp') :
    sp'.point k = sp.point k + sp.point p ∧ sp'.point p = sp.point k - sp.point p := by
  rwa [Combines, twiddled_one] at h

theorem runningTwiddle_four {c : Config} (hcos : c.cosTab = cosTabDefault) (hsin : c.sinTab = sinTabDefault) :
    runningTwiddle c 4 1 = (0, -65536) := by
  have hstep : stageStep cfgRef 4 = (0, -65536) := by decide +kernel
  rw [runningTwiddle_succ, stageStep_of_default hcos hsin, hstep]
  rfl

/-! ### Two and four points -/

section
variable {c : Config} {sp sp' : Spectrum}

theorem fftRun_two_points (hn : sp.Covers 2) (h : fftRun c 2 sp = .ok sp') :
    sp'.point 0 = sp.point 0 + sp.point 1 ∧ sp'.point 1 = sp.point 0 - sp.point 1 := by
  obtain ⟨f, hf0, rfl, hstage⟩ := fftRun_combines (m := 1) hn h
  have hpoint (i : Nat) (hi : i < 2) : (f 0).point i = sp.point (bitrev i 1) := by
    rw [hf0]
    exact reversed_point hn hi
  have z0 : (f 0).point 0 = sp.point 0 := hpoint 0 (by decide)
  have z1 : (f 0).point 1 = sp.point 1 := hpoint 1 (by decide)
  have pair01 : Combines (65536, 0) 0 1 (f 0) (f 1) := hstage 0 one_pos 0 (by decide) 0 one_pos
  rw [← z0, ← z1]
  exact pair01.of_one

theorem fftRun_four_points (hcos : c.cosTab = cosTabDefault) (hsin : c.sinTab = sinTabDefault) (hn : sp.Covers 4)
    (h : fftRun c 4 sp = .ok sp') :
    let r := elem sp.re
    let q := elem sp.im
    sp'.point 0 = (r 0 + r 1 + r 2 + r 3, q 0 + q 1 + q 2 + q 3) ∧
    sp'.point 1 = (r 0 + q 1 - r 2 - q 3, q 0 - r 1 - q 2 + r 3) ∧
    sp'.point 2 = (r 0 - r 1 + r 2 - r 3, q 0 - q 1 + q 2 - q 3) ∧
    sp'.point 3 = (r 0 - q 1 - r 2 + q 3, q 0 + r 1 - q 2 - r 3) := by
  intro r q
  obtain ⟨f, hf0, rfl, hstage⟩ := fftRun_combines (m := 2) hn h
  have hpoint (i : Nat) (hi : i < 4) : (f 0).point i = sp.point (bitrev i 2) := by
    rw [hf0]
    exact reversed_point hn hi
  have z0 : (f 0).point 0 = sp.point 0 := hpoint 0 (by decide)
  have z2 : (f 0).point 1 = sp.point 2 := hpoint 1 (by decide)
  have z1 : (f 0).point 2 = sp.point 1 := hpoint 2 (by decide)
  have z3 : (f 0).point 3 = sp.point 3 := hpoint 3 (by decide)
  have pair01 : Combines (65536, 0) 0 1 (f 0) (f 1) := hstage 0 (by decide) 0 (by decide) 0 (by decide)
  have pair23 : Combines (65536, 0) 2 3 (f 0) (f 1) := hstage 0 (by decide) 1 (by decide) 0 (by decide)
  have pair02 : Combines (65536, 0) 0 2 (f 1) (f 2) := hstage 1 (by decide) 0 (by decide) 0 (by decide)
  have pair13 : Combines (runningTwiddle c 4 1) 1 3 (f 1) (f 2) :=
    hstage 1 (by decide) 0 (by decide) 1 (by decide)
  obtain ⟨a0, a1⟩ := pair01.of_one
  obtain ⟨a2, a3⟩ := pair23.of_one
  obtain ⟨b0, b2⟩ := pair02.of_one
  obtain ⟨b1, b3⟩ := pair13
  rw [runningTwiddle_four hcos hsin, twiddled_negI] at b1 b3
  rw [a0, a2, z0, z1, z2, z3] at b0 b2
  rw [a1, a3, z0, z1, z2, z3] at b1 b3
  refine ⟨b0.trans ?_, b1.trans ?_, b2.trans ?_, b3.trans ?_⟩
  all_goals
    refine Prod.ext ?_ ?_ <;>
      simp only [Spectrum.point, Prod.fst_add, Prod.snd_add, Prod.fst_sub, Prod.snd_sub, r, q] <;> ring

end

/-! ### The arrays a small transform leaves -/

theorem elem_eq {l : List U64} {i : Nat} {v : Int} (h : elem l i = v) : l.getD i 0 = BitVec.ofInt 64 v := by
  rw [← h, elem, BitVec.ofInt_toInt]

/-- An array with these first elements and the old ones after them. -/
theorem eq_map_append_drop {l l' : List U64} {vs : List Int} (hlen : l'.length = l.length) (hvs : vs.length ≤ l.length)
    (hfirst : ∀ i < vs.length, elem l' i = vs.getD i 0) (hrest : ∀ i, ¬ i < vs.length → l'.getD i 0 = l.getD i 0) :
    l' = vs.map (BitVec.ofInt 64) ++ l.drop vs.length := by
  apply eq_of_getD (by simp; omega)
  intro i
  by_cases hi : i < vs.length
  · rw [elem_eq (hfirst i hi), List.getD_append _ _ _ _ (by simpa using hi), List.getD_eq_getElem _ _ hi,
      List.getD_eq_getElem _ _ (by simpa using hi), List.getElem_map]
  · rw [hrest i hi, List.getD_append_right _ _ _ _ (by simpa using hi), List.length_map]
    simp only [List.getD_eq_getElem?_getD, List.getElem?_drop]
    congr 3
    omega

theorem two_append_drop {l : List U64} (h : 2 ≤ l.length) (a b : U64) :
    [a, b] ++ l.drop 2 = (l.set 0 a).set 1 b := by
  match l, h with
  | _ :: _ :: _, _ => rfl

/-- The elements of a transform of `2^m` points that completed, in terms of its elements below `2^m`. -/
theorem fftRun_arrays {c : Config} {m : Nat} {sp sp' : Spectrum} (hn : sp.Covers (2 ^ m))
    (h : fftRun c (2 ^ m) sp = .ok sp') {vs ws : List Int} (hvs : vs.length = 2 ^ m) (hws : ws.length = 2 ^ m)
    (hpoints : ∀ i < 2 ^ m, sp'.point i = (vs.getD i 0, ws.getD i 0)) :
    sp' = ⟨vs.map (BitVec.ofInt 64) ++ sp.re.drop (2 ^ m), ws.map (BitVec.ofInt 64) ++ sp.im.drop (2 ^ m)⟩ := by
  have hc := (fftRun_endsIn c m sp).of_ok h
  obtain ⟨re', im'⟩ := sp'
  rw [Spectrum.mk.injEq]
  refine ⟨?_, ?_⟩
  · rw [← hvs] at hpoints hc hn ⊢
    exact eq_map_append_drop hc.reLength hn.1 (fun i hi => congrArg Prod.fst (hpoints i hi)) hc.re
  · rw [← hws] at hpoints hc hn ⊢
    exact eq_map_append_drop hc.imLength hn.2 (fun i hi => congrArg Prod.snd (hpoints i hi)) hc.im

/-- FFT of one element (R135). -/
theorem exec_fft_one {s : State} {n : U16} (hn : n.toNat = 1) (hle : 1 ≤ s.cfg.flk.fftMax) :
    exec (.fft n) s = .next (completed s) := by
  have hrun : fftRun s.cfg (2 ^ 0) ⟨s.buf.re, s.buf.im⟩ = .ok ⟨s.buf.re, s.buf.im⟩ := by
    rw [fftRun_two_pow, Spectrum.reversed, bitReverse_zero, bitReverse_zero]
    rfl
  exact exec_fft_of_ok (by omega) hn hrun

/-- FFT of two elements (R135). -/
theorem exec_fft_two {s : State} (hs : s.Legal) (hb : ∀ i < 2, Safe (elem s.buf.re i, elem s.buf.im i)) :
    exec (.fft 2) s = .next (completed { s with buf := { s.buf with
      re := (s.buf.re.set 0 (BitVec.ofInt 64 (elem s.buf.re 0 + elem s.buf.re 1))).set 1
        (BitVec.ofInt 64 (elem s.buf.re 0 - elem s.buf.re 1))
      im := (s.buf.im.set 0 (BitVec.ofInt 64 (elem s.buf.im 0 + elem s.buf.im 1))).set 1
        (BitVec.ofInt 64 (elem s.buf.im 0 - elem s.buf.im 1)) } }) := by
  obtain ⟨-, h128, -⟩ := configOk_sizes hs.cfg
  have hcovers := covers_of_legal hs (n := 2) (by omega)
  obtain ⟨sp, hrun, -⟩ := fftRun_returns (m := 1) (e := 2 ^ 45) (c := s.cfg) (by norm_num) (by norm_num) hcovers
    (fun k hk => by rw [Nat.lt_one_iff.mp hk]; exact stageSmall_first _) hb
  have hpoints := fftRun_two_points hcovers hrun
  obtain rfl := fftRun_arrays (m := 1) hcovers hrun
    (vs := [elem s.buf.re 0 + elem s.buf.re 1, elem s.buf.re 0 - elem s.buf.re 1])
    (ws := [elem s.buf.im 0 + elem s.buf.im 1, elem s.buf.im 0 - elem s.buf.im 1]) rfl rfl fun i hi => by
      obtain rfl | rfl : i = 0 ∨ i = 1 := by omega
      · exact hpoints.1
      · exact hpoints.2
  rw [← two_append_drop hcovers.1, ← two_append_drop hcovers.2]
  exact exec_fft_of_ok (h128.trans' (by decide)) (m := 1) rfl hrun

/-- FFT of four elements with the default tables (R135). -/
theorem exec_fft_four {s : State} (hs : s.Legal) (hcos : s.cfg.cosTab = cosTabDefault)
    (hsin : s.cfg.sinTab = sinTabDefault)
    (hb : ∀ i < 4, Within (2 ^ 44) (elem s.buf.re i, elem s.buf.im i)) :
    let r := elem s.buf.re
    let q := elem s.buf.im
    exec (.fft 4) s = .next (completed { s with buf := { s.buf with
      re := [r 0 + r 1 + r 2 + r 3, r 0 + q 1 - r 2 - q 3, r 0 - r 1 + r 2 - r 3, r 0 - q 1 - r 2 + q 3].map
        (BitVec.ofInt 64) ++ s.buf.re.drop 4
      im := [q 0 + q 1 + q 2 + q 3, q 0 - r 1 - q 2 + r 3, q 0 - q 1 + q 2 - q 3, q 0 + r 1 - q 2 - r 3].map
        (BitVec.ofInt 64) ++ s.buf.im.drop 4 } }) := by
  intro r q
  obtain ⟨-, h128, -⟩ := configOk_sizes hs.cfg
  have hcovers := covers_of_legal hs (n := 4) (by omega)
  obtain ⟨sp, hrun, -⟩ := fftRun_returns (m := 2) (e := 2 ^ 42) (c := s.cfg) (by norm_num) (by norm_num) hcovers
    (fun k hk => stageSmall_of_default hcos hsin (by omega)) hb
  obtain ⟨h0, h1, h2, h3⟩ := fftRun_four_points hcos hsin hcovers hrun
  obtain rfl := fftRun_arrays (m := 2) hcovers hrun
    (vs := [r 0 + r 1 + r 2 + r 3, r 0 + q 1 - r 2 - q 3, r 0 - r 1 + r 2 - r 3, r 0 - q 1 - r 2 + q 3])
    (ws := [q 0 + q 1 + q 2 + q 3, q 0 - r 1 - q 2 + r 3, q 0 - q 1 + q 2 - q 3, q 0 + r 1 - q 2 - r 3])
    rfl rfl fun i hi => by
      obtain rfl | rfl | rfl | rfl : i = 0 ∨ i = 1 ∨ i = 2 ∨ i = 3 := by omega
      · exact h0
      · exact h1
      · exact h2
      · exact h3
  exact exec_fft_of_ok (h128.trans' (by decide)) (m := 2) rfl hrun

/-- Settles O32: the refused sizes, the three smallest transforms, and the permutation. -/
theorem smallTransforms : Obligations.SmallTransforms := by
  refine ⟨fun s n => ⟨exec_fft_of_above, exec_fft_of_not_pow, exec_fft_one⟩, ?two, ?four, fun m l hl => ⟨bitReverse_eq_exchanges hl, bitReverse_bitReverse hl⟩⟩
  case two =>
    intro s hs a hb
    exact exec_fft_two hs fun i hi => ⟨hb _ (by simp) i hi, hb _ (by simp) i hi⟩
  case four =>
    intro s hs hcos hsin r q hb
    exact exec_fft_four hs hcos hsin fun i hi => by
      obtain ⟨h1, h2, h3, h4⟩ := hb i hi
      exact ⟨⟨h1, h2⟩, h3, h4⟩

end Sys2Proof.Machine
end

section
/-! Legal states (10_state.md R23 to R38, 42_fifo_parser.md R157): what the device does keeps it legal, and inside an
operation the block is legal but for the phase, which DISPATCH sets and puts back (46_dispatch.md R215). -/

namespace Sys2Proof.Machine

/-! ### The device (20_memory.md R72, R78) -/

theorem simReadOk_reg (c : Config) (d : SimDev) (addr : Byte) (n : Nat) : (simReadOk c d addr n).2.reg = d.reg := by
  unfold simReadOk
  split_ifs <;> rfl

theorem simWriteByte_memWf (c : Config) {d : SimDev} (h : memWf d.reg = true) (a : Nat) (b : Byte) :
    memWf (simWriteByte c d a b).reg = true := by
  unfold simWriteByte
  split
  next ha => exact memWf_memWrite h (ha ▸ BitVec.isLt _) _
  next =>
    split
    next ha =>
      split
      · exact memWf_memWrite h (ha ▸ BitVec.isLt _) _
      · exact memWf_memWrite h (ha ▸ BitVec.isLt _) _
    next =>
      split
      next ha => exact memWf_memWrite h ha _
      next => exact h

theorem simWriteBytes_memWf (c : Config) {d : SimDev} (h : memWf d.reg = true) (a : Nat) (bytes : List Byte) :
    memWf (simWriteBytes c d a bytes).reg = true := by
  induction bytes generalizing d a with
  | nil => exact h
  | cons b bs ih => exact ih (simWriteByte_memWf c h a b) (a + 1)

theorem busRead_deviceLegal (c : Config) {bus : Bus} (h : deviceLegal bus.dev) (addr : Byte) (n : Nat) :
    deviceLegal (busRead c bus addr n).2.dev := by
  obtain ⟨dev, log⟩ := bus
  cases dev with
  | oracle script draws =>
    simp only [busRead, deviceRead, oracleRead]
    split
    · trivial
    · trivial
    · split <;> trivial
  | sim d =>
    simp only [busRead, deviceRead, simRead]
    split
    · simp only [deviceLegal, simReadOk_reg]
      exact h
    · exact h

theorem busWrite_deviceLegal (c : Config) {bus : Bus} (h : deviceLegal bus.dev) (addr : Byte) (bytes : List Byte) :
    deviceLegal (busWrite c bus addr bytes).2.dev := by
  obtain ⟨dev, log⟩ := bus
  cases dev with
  | oracle script draws =>
    simp only [busWrite, deviceWrite, oracleWrite]
    split <;> trivial
  | sim d =>
    simp only [busWrite, deviceWrite, simWrite]
    split
    · exact simWriteBytes_memWf c (d := { d with outcomes := d.outcomes.tail }) h _ _
    · exact h

/-- What the device does between commands keeps its registers in canonical form. -/
theorem deviceAct_deviceLegal {dev : Device} (h : deviceLegal dev) (act : DeviceAct) :
    deviceLegal (deviceAct dev act) := by
  cases dev with
  | oracle script draws => cases act <;> trivial
  | sim d =>
    cases act with
    | poke addr v => exact memWf_memWrite h addr.isLt v
    | push _ | overflow _ | outcomes _ | answers _ => exact h

/-! ### Legal inside an operation -/

/-- Legal but for the phase, which is `ph`. -/
structure LegalDuring (ph : Phase) (s : State) : Prop where
  phase : s.dc.phase = ph
  rest : (setPhase .idle s).Legal

section
variable {ph : Phase} {s : State}

theorem legalDuring_idle_iff : LegalDuring .idle s ↔ s.Legal := by
  have heq (h : s.dc.phase = .idle) : setPhase .idle s = s := by rw [setPhase, ← h]
  exact ⟨fun h => heq h.phase ▸ h.rest, fun h => ⟨h.dc.phase, (heq h.dc.phase).symm ▸ h⟩⟩

theorem LegalDuring.setPhase (h : LegalDuring ph s) (ph' : Phase) : LegalDuring ph' (setPhase ph' s) :=
  ⟨rfl, h.rest⟩

theorem LegalDuring.cfg (h : LegalDuring ph s) : configOk s.cfg = true := h.rest.cfg
theorem LegalDuring.flk (h : LegalDuring ph s) : FlickerLegal s.cfg s.flk := h.rest.flk
theorem LegalDuring.als (h : LegalDuring ph s) : AlsLegal s.cfg s.als := h.rest.als
theorem LegalDuring.agc (h : LegalDuring ph s) : AgcLegal s.cfg s.agc := h.rest.agc
theorem LegalDuring.buf (h : LegalDuring ph s) : BuffersSized s.cfg s.buf := h.rest.buf
theorem LegalDuring.ring (h : LegalDuring ph s) : RingLegal s.flk s.buf := h.rest.ring
theorem LegalDuring.dev (h : LegalDuring ph s) : deviceLegal s.bus.dev := h.rest.dev

/-! ### The changes of the state that keep it legal, by the group of state they are in -/

theorem LegalDuring.withX (h : LegalDuring ph s) (x : Vector U64 8) : LegalDuring ph { s with x := x } :=
  ⟨h.phase, { h.rest with }⟩

theorem LegalDuring.withBus (h : LegalDuring ph s) {bus : Bus} (hd : deviceLegal bus.dev) :
    LegalDuring ph { s with bus := bus } :=
  ⟨h.phase, { h.rest with dev := hd }⟩

theorem LegalDuring.withAgc (h : LegalDuring ph s) {agc : Agc} (ha : AgcLegal s.cfg agc) :
    LegalDuring ph { s with agc := agc } :=
  ⟨h.phase, { h.rest with agc := ha }⟩

theorem LegalDuring.withAls (h : LegalDuring ph s) {als : Als} (ha : AlsLegal s.cfg als) :
    LegalDuring ph { s with als := als } :=
  ⟨h.phase, { h.rest with als := ha }⟩

/-- Buffers other than the ring. -/
theorem LegalDuring.withBuf (h : LegalDuring ph s) {buf : Buffers} (hb : BuffersSized s.cfg buf)
    (hlen : buf.ringLen = s.buf.ringLen) : LegalDuring ph { s with buf := buf } :=
  ⟨h.phase, { h.rest with buf := hb, ring := ⟨hlen ▸ h.ring.len, hlen ▸ h.ring.ready⟩ }⟩

/-- The ring and what says whether it holds a frame. -/
theorem LegalDuring.withFlkBuf (h : LegalDuring ph s) {flk : Flicker} {buf : Buffers} (hf : FlickerLegal s.cfg flk)
    (hb : BuffersSized s.cfg buf) (hr : RingLegal flk buf) : LegalDuring ph { s with flk := flk, buf := buf } :=
  ⟨h.phase, { h.rest with flk := hf, buf := hb, ring := hr }⟩

/-- What the flicker context holds besides the ring's threshold, the frame's form and data-ready. -/
theorem LegalDuring.withFlk (h : LegalDuring ph s) {flk : Flicker} (hf : FlickerLegal s.cfg flk)
    (hthr : flk.fifoThreshold = s.flk.fifoThreshold) (hready : flk.dataReady = s.flk.dataReady) :
    LegalDuring ph { s with flk := flk } := by
  have hframe : frameBytes flk = frameBytes s.flk := by
    simp only [frameBytes, hf.sampleCount, hf.metaGain, hf.metaCsum, hf.metaEnd, h.flk.sampleCount, h.flk.metaGain,
      h.flk.metaCsum, h.flk.metaEnd]
  exact h.withFlkBuf hf h.buf ⟨hthr ▸ h.ring.len, by rw [hready, hframe]; exact h.ring.ready⟩

/-- The device context with phase, status, faults and variant as they are. -/
theorem LegalDuring.withDc (h : LegalDuring ph s) {dc : DeviceContext} (hp : dc.phase = s.dc.phase)
    (he : dc.lastErr = s.dc.lastErr) (hf : dc.faults = s.dc.faults)
    (hv : ∀ k, dc.variant = some k → k < s.cfg.bus.deviceIds.length) : LegalDuring ph { s with dc := dc } := by
  have hdc := h.rest.dc
  exact ⟨hp.trans h.phase, { h.rest with dc := ⟨rfl, he ▸ hdc.lastErr, hf ▸ hdc.faults, hv⟩ }⟩

theorem LegalDuring.variant (h : LegalDuring ph s) {k : Nat} (hk : s.dc.variant = some k) :
    k < s.cfg.bus.deviceIds.length := h.rest.dc.variant k hk

end

end Sys2Proof.Machine
end

section
/-! Procedures keep a legal state (10_state.md R23 to R38): whatever a procedure does from a legal state, it leaves a
legal state, whether it returns or raises, and it never raises the status of a refused arrival (60_exceptions.md R256,
R266). -/

namespace Sys2Proof.Machine

/-! ### The ways of building a procedure -/

section
variable {α β : Type} {ph : Phase} {s : State} {p : Proc α} {k : α → Proc β}

/-- A run ended in a legal state, and not with the status of a refused arrival. -/
def EndsLegal (ph : Phase) : EStateM.Result Raised State α → Prop
  | .ok _ t => LegalDuring ph t
  | .error e t => LegalDuring ph t ∧ e.code ≠ .busy

/-- From `s`, if it is legal, the procedure leaves a legal state. -/
def StaysLegal (ph : Phase) (p : Proc α) (s : State) : Prop := LegalDuring ph s → EndsLegal ph (p s)

theorem stays_of_legal (h : LegalDuring ph s → StaysLegal ph p s) : StaysLegal ph p s := fun hs => h hs hs

theorem stays_pure (a : α) : StaysLegal ph (pure a : Proc α) s := id

theorem stays_look (f : State → α) : StaysLegal ph (look f) s := id

theorem stays_update {f : State → State} (h : LegalDuring ph s → LegalDuring ph (f s)) : StaysLegal ph (update f) s :=
  h

theorem stays_raise {code : FaultCode} (h : code ≠ .busy) (info : U16) : StaysLegal ph (raise code info : Proc α) s :=
  fun hs => ⟨hs, h⟩

theorem stays_require (ok : Bool) (info : U16) : StaysLegal ph (require ok info) s := by
  cases ok
  · exact stays_raise (by decide) info
  · exact stays_pure ()

theorem stays_bind (hp : StaysLegal ph p s) (hk : ∀ a t, p s = .ok a t → StaysLegal ph (k a) t) :
    StaysLegal ph (p >>= k) s := by
  intro hs
  have hends := hp hs
  rw [bind_run]
  cases hps : p s with
  | ok a t =>
    rw [hps] at hends
    exact hk a t hps hends
  | error e t => rwa [hps] at hends

/-- A sequence whose second part needs nothing of the first but a legal state. -/
theorem stays_seq (hp : StaysLegal ph p s) (hk : ∀ a t, StaysLegal ph (k a) t) : StaysLegal ph (p >>= k) s :=
  stays_bind hp fun a t _ => hk a t

theorem stays_look_bind {f : State → α} (hk : StaysLegal ph (k (f s)) s) : StaysLegal ph (look f >>= k) s := hk

/-- What follows a check may use what was checked. -/
theorem stays_require_bind {ok : Bool} {info : U16} {k : Unit → Proc β} (hk : ok = true → StaysLegal ph (k ()) s) :
    StaysLegal ph (require ok info >>= k) s := by
  cases ok
  · exact stays_raise (by decide) info
  · exact hk rfl

theorem stays_ite (c : Prop) [Decidable c] {q : Proc α} (hp : c → StaysLegal ph p s) (hq : ¬ c → StaysLegal ph q s) :
    StaysLegal ph (if c then p else q) s := by
  split
  next h => exact hp h
  next h => exact hq h

theorem stays_onlyIf (c : Bool) {p : Proc Unit} (hp : StaysLegal ph p s) : StaysLegal ph (onlyIf c p) s := by
  cases c
  · exact stays_pure ()
  · exact hp

theorem stays_setX (r : Nat) (v : U64) : StaysLegal ph (update (setX r v)) s := stays_update fun h => h.withX _

/-- A procedure whose value is then put in an operand register. -/
theorem stays_result (hp : StaysLegal ph p s) (r : Nat) (f : α → U64) :
    StaysLegal ph (p >>= fun a => update (setX r (f a))) s :=
  stays_seq hp fun _ _ => stays_setX _ _

end

/-! ### Register access (40_register_access.md R110 to R118) -/

section
variable {ph : Phase} {s : State}

theorem LegalDuring.countError (h : LegalDuring ph s) : LegalDuring ph (countError s) :=
  h.withDc rfl rfl rfl fun _ => h.variant

theorem LegalDuring.shadowRead (h : LegalDuring ph s) (reg v : Byte) : LegalDuring ph (shadowRead reg v s) :=
  h.withDc rfl rfl rfl fun _ => h.variant

theorem LegalDuring.shadowWrite (h : LegalDuring ph s) (reg v : Byte) : LegalDuring ph (shadowWrite reg v s) :=
  h.withDc rfl rfl rfl fun _ => h.variant

theorem stays_transactRead (reg : Byte) (n : Nat) : StaysLegal ph (transactRead reg n) s := by
  intro h
  have hdev := busRead_deviceLegal s.cfg h.dev (regAddr s.cfg reg.toNat) n
  cases hb : busRead s.cfg s.bus (regAddr s.cfg reg.toNat) n with
  | mk answer bus =>
    rw [hb] at hdev
    cases answer with
    | some bytes =>
      rw [transactRead_ok hb]
      exact h.withBus hdev
    | none =>
      rw [transactRead_fail hb]
      exact ⟨(h.withBus hdev).countError, nofun⟩

theorem stays_transactWrite (reg : Byte) (bytes : List Byte) : StaysLegal ph (transactWrite reg bytes) s := by
  intro h
  have hdev := busWrite_deviceLegal s.cfg h.dev (regAddr s.cfg reg.toNat) bytes
  cases hb : busWrite s.cfg s.bus (regAddr s.cfg reg.toNat) bytes with
  | mk done bus =>
    rw [hb] at hdev
    cases done with
    | true =>
      rw [transactWrite_ok hb]
      exact h.withBus hdev
    | false =>
      rw [transactWrite_fail hb]
      exact ⟨(h.withBus hdev).countError, nofun⟩

theorem stays_checkReg (reg : Byte) : StaysLegal ph (checkReg reg) s := stays_look_bind (stays_require _ _)

theorem stays_checkWordReg (reg : Byte) : StaysLegal ph (checkWordReg reg) s :=
  stays_look_bind (stays_require_bind fun _ => stays_require _ _)

theorem stays_checkLength (n : Nat) : StaysLegal ph (checkLength n) s := stays_look_bind (stays_require _ _)

theorem stays_getByte (reg : Byte) : StaysLegal ph (getByte reg) s :=
  stays_seq (stays_checkReg reg) fun _ _ => stays_seq (stays_transactRead reg 1) fun _ _ =>
    stays_seq (stays_update fun h => h.shadowRead _ _) fun _ _ => stays_pure _

theorem stays_setByte (reg val : Byte) : StaysLegal ph (setByte reg val) s :=
  stays_seq (stays_checkReg reg) fun _ _ => stays_seq (stays_transactWrite reg _) fun _ _ =>
    stays_update fun h => h.shadowWrite _ _

theorem stays_getWord (reg : Byte) : StaysLegal ph (getWord reg) s :=
  stays_seq (stays_checkWordReg reg) fun _ _ => stays_seq (stays_transactRead reg 2) fun _ _ => stays_pure _

theorem stays_setWord (reg : Byte) (v : U16) : StaysLegal ph (setWord reg v) s :=
  stays_seq (stays_checkWordReg reg) fun _ _ => stays_transactWrite reg _

theorem stays_getBuf (reg : Byte) (n : Nat) : StaysLegal ph (getBuf reg n) s :=
  stays_seq (stays_checkReg reg) fun _ _ => stays_seq (stays_checkLength n) fun _ _ => stays_transactRead reg n

theorem stays_setBuf (reg : Byte) (bytes : List Byte) : StaysLegal ph (setBuf reg bytes) s :=
  stays_seq (stays_checkReg reg) fun _ _ => stays_seq (stays_checkLength _) fun _ _ => stays_transactWrite reg bytes

theorem stays_getField (reg mask : Byte) : StaysLegal ph (getField reg mask) s :=
  stays_seq (stays_getByte reg) fun _ _ => stays_pure _

theorem stays_setField (reg val mask : Byte) : StaysLegal ph (setField reg val mask) s :=
  stays_seq (stays_checkReg reg) fun _ _ => stays_require_bind fun _ => stays_seq (stays_getByte reg) fun _ _ =>
    stays_ite _ (fun _ => stays_pure _) fun _ => stays_seq (stays_setByte reg _) fun _ _ => stays_pure _

theorem stays_setFields (ws : List FieldWrite) : StaysLegal ph (setFields ws) s := by
  induction ws generalizing s with
  | nil => exact stays_pure ()
  | cons w ws ih => exact stays_seq (stays_setField w.reg w.val w.mask) fun _ _ => ih

/-- No register access changes the configuration. -/
theorem sameCfg_bus : BusRel fun s t => t.cfg = s.cfg where
  refl _ := rfl
  trans _ _ _ h k := k.trans h
  read _ _ _ := rfl
  write _ _ _ := rfl
  count _ := rfl
  shadowRead _ _ _ := rfl
  shadowWrite _ _ _ := rfl

theorem setField_cfg {reg val mask : Byte} {wrote : Bool} {t : State} (h : setField reg val mask s = .ok wrote t) :
    t.cfg = s.cfg := by
  simpa [h] using keeps_setField sameCfg_bus reg val mask s

theorem setFields_cfg {ws : List FieldWrite} {t : State} (h : setFields ws s = .ok () t) : t.cfg = s.cfg := by
  simpa [h] using keeps_setFields sameCfg_bus ws s

theorem getByte_cfg {reg v : Byte} {t : State} (h : getByte reg s = .ok v t) : t.cfg = s.cfg := by
  simpa [h] using keeps_getByte sameCfg_bus reg s

/-- A buffer read that succeeds returns as many bytes as were asked for and changes only the bus. -/
theorem getBuf_eq_ok {reg : Byte} {n : Nat} {bytes : List Byte} {t : State} (h : getBuf reg n s = .ok bytes t) :
    bytes.length = n ∧ ∃ bus, t = { s with bus := bus } := by
  obtain ⟨_, _, hreg, h⟩ := bind_eq_ok.mp h
  obtain ⟨_, _, hlen, h⟩ := bind_eq_ok.mp h
  rw [checkReg_run] at hreg
  split at hreg
  next hr =>
    cases hreg
    by_cases hn : n = 0 ∨ s.cfg.bus.xferMax < n
    · rw [checkLength_bad hn] at hlen
      cases hlen
    · rw [checkLength_ok (by omega) (by omega)] at hlen
      cases hlen
      cases hb : busRead s.cfg s.bus (regAddr s.cfg reg.toNat) n with
      | mk answer bus =>
        cases answer with
        | none =>
          rw [transactRead_fail hb] at h
          cases h
        | some bytes =>
          rw [transactRead_ok hb] at h
          cases h
          exact ⟨busRead_length hb, bus, rfl⟩
  next => cases hreg

/-! ### Operands (30_encoding.md R92, 20_memory.md R77) -/

theorem stays_flagOperand (v : Byte) : StaysLegal ph (flagOperand v) s := stays_require_bind fun _ => stays_pure _

theorem stays_bufferFetch (sel : Byte) (idx : U16) : StaysLegal ph (bufferFetch sel idx) s := by
  unfold bufferFetch
  split
  · exact stays_raise (by decide) _
  · exact stays_look_bind (stays_require_bind fun _ => stays_look _)

theorem bufferWrite_sized {c : Config} {b : Buffers} (h : BuffersSized c b) (sel : BufferSel) (i : Nat) (v : U64) :
    BuffersSized c (bufferWrite b sel i v) := by
  cases sel with
  | clear => exact { h with clear := List.length_set.trans h.clear }
  | wide => exact { h with wide := List.length_set.trans h.wide }
  | re => exact { h with re := List.length_set.trans h.re }
  | im => exact { h with im := List.length_set.trans h.im }
  | mag => exact { h with mag := List.length_set.trans h.mag }
  | xfer => exact { h with xfer := List.length_set.trans h.xfer }
  | win | ring | cosTab | sinTab | gainTab | winTab => exact h

theorem bufferWrite_ringLen (b : Buffers) (sel : BufferSel) (i : Nat) (v : U64) :
    (bufferWrite b sel i v).ringLen = b.ringLen := by
  cases sel <;> rfl

theorem stays_bufferStore (sel : Byte) (idx : U16) (v : U64) : StaysLegal ph (bufferStore sel idx v) s := by
  unfold bufferStore
  split
  · exact stays_raise (by decide) _
  · exact stays_require_bind fun _ => stays_look_bind (stays_require_bind fun _ =>
      stays_update fun h => h.withBuf (bufferWrite_sized h.buf _ _ _) (bufferWrite_ringLen _ _ _ _))

/-! ### FIFO drain and frame parser (42_fifo_parser.md R151 to R156) -/

theorem stays_fifoClear : StaysLegal ph fifoClear s :=
  stays_look_bind (stays_seq (stays_setField _ _ _) fun _ _ => stays_pure ())

theorem LegalDuring.emptyRing (h : LegalDuring ph s) : LegalDuring ph (emptyRing s) :=
  h.withFlkBuf { h.flk with } { h.buf with } ⟨Nat.zero_le _, nofun⟩

theorem stays_resetAndAbort : StaysLegal ph resetAndAbort s :=
  stays_seq stays_fifoClear fun _ _ => stays_update LegalDuring.emptyRing

/-- A chunk that fits under the threshold. -/
theorem LegalDuring.appendRing (h : LegalDuring ph s) {bytes : List Byte}
    (hfit : s.buf.ringLen.toNat + bytes.length ≤ s.flk.fifoThreshold.toNat) : LegalDuring ph (appendRing bytes s) := by
  have hthr := s.flk.fifoThreshold.isLt
  have hlen : (s.buf.ringLen + BitVec.ofNat 16 bytes.length).toNat = s.buf.ringLen.toNat + bytes.length := by
    rw [BitVec.toNat_add, BitVec.toNat_ofNat, Nat.add_mod_mod, Nat.mod_eq_of_lt (by omega)]
  exact h.withFlkBuf h.flk { h.buf with ring := (overlay_length _ _ _).trans h.buf.ring }
    ⟨hlen.trans_le hfit, fun hr => (h.ring.ready hr).trans (hlen ▸ Nat.le_add_right _ _)⟩

theorem stays_drainChunks (fuel rem : Nat) : StaysLegal ph (drainChunks fuel rem) s := by
  induction fuel generalizing rem s with
  | zero => exact stays_pure true
  | succ fuel ih =>
    refine stays_ite _ (fun _ => stays_pure true) fun _ => stays_look_bind (stays_ite _ (fun _ => stays_pure false)
      fun hfit => stays_bind (stays_getBuf _ _) fun bytes t ht => stays_seq (stays_update fun h => ?_) fun _ _ => ih _)
    obtain ⟨hlen, bus, rfl⟩ := getBuf_eq_ok ht
    exact h.appendRing (hlen ▸ Nat.not_lt.mp hfit)

theorem LegalDuring.markReady (h : LegalDuring ph s) : LegalDuring ph (markReady s) :=
  h.withFlkBuf { h.flk with } h.buf ⟨h.ring.len, of_decide_eq_true⟩

theorem stays_drain : StaysLegal ph drain s :=
  have abort (t : State) : StaysLegal ph (do resetAndAbort; pure false) t :=
    stays_seq stays_resetAndAbort fun _ _ => stays_pure false
  stays_look_bind (stays_seq (stays_getByte _) fun _ _ => stays_seq (stays_getByte _) fun _ _ =>
    stays_ite _ (fun _ => abort _) fun _ => stays_seq (stays_drainChunks _ _) fun _ _ =>
      stays_ite _ (fun _ => stays_seq (stays_update LegalDuring.markReady) fun _ _ => stays_look _) fun _ => abort _)

theorem stays_checkFrameSize (n : U16) : StaysLegal ph (checkFrameSize n) s := stays_look_bind (stays_require _ _)

theorem LegalDuring.splitSamples (h : LegalDuring ph s) (n : Nat) : LegalDuring ph (splitSamples n s) :=
  h.withBuf { h.buf with
    clear := (overlay_length _ _ _).trans h.buf.clear
    wide := (overlay_length _ _ _).trans h.buf.wide } rfl

theorem stays_deinterleave : StaysLegal ph deinterleave s :=
  stays_look_bind (stays_seq (stays_checkFrameSize _) fun _ _ => stays_look_bind (stays_require_bind fun _ =>
    stays_update fun h => h.splitSamples _))

theorem gainNibbles_length (nMod : Nat) (gw : U16) : (gainNibbles nMod gw).length = nMod := by simp [gainNibbles]

theorem LegalDuring.parseTrailer (h : LegalDuring ph s) : LegalDuring ph (parseTrailer s) := by
  refine h.withFlk { h.flk with gain := ?_ } rfl rfl
  show (if s.flk.metaGain = true then _ else _ : List U4).length = _
  split
  · exact gainNibbles_length _ _
  · exact h.flk.gain

theorem stays_parseMeta : StaysLegal ph parseMeta s :=
  stays_look_bind (stays_require_bind fun _ => stays_update LegalDuring.parseTrailer)

/-! ### Kernels (41_dsp_kernels.md R133 to R137) -/

theorem LegalDuring.windowGenerate (h : LegalDuring ph s) : LegalDuring ph (windowGenerate s) :=
  h.withBuf { h.buf with win := (overlay_length _ _ _).trans h.buf.win } rfl

theorem LegalDuring.applyWindow (h : LegalDuring ph s) : LegalDuring ph (applyWindow s) :=
  (h.withFlk (flk := (Machine.applyWindow s).flk) { h.flk with } rfl rfl).withBuf
    { h.buf with re := (overlay_length _ _ _).trans h.buf.re, im := (overlay_length _ _ _).trans h.buf.im } rfl

theorem stays_window : StaysLegal ph window s :=
  stays_look_bind (stays_require_bind fun _ => stays_update LegalDuring.applyWindow)

theorem LegalDuring.storeSpectrum (h : LegalDuring ph s) {P : Nat → Prop} {sp : Spectrum}
    (hsp : ChangesOnly P ⟨s.buf.re, s.buf.im⟩ sp) : LegalDuring ph (storeSpectrum sp s) :=
  h.withBuf { h.buf with re := hsp.reLength.trans h.buf.re, im := hsp.imLength.trans h.buf.im } rfl

theorem stays_fft (n : U16) : StaysLegal ph (fft n) s := by
  refine stays_look_bind (stays_ite _ (fun _ => stays_pure ()) fun _ => stays_require_bind fun hpow =>
    stays_look_bind ?_)
  obtain ⟨m, hm⟩ := (isPow2_iff _).mp (Bool.and_elim_right hpow)
  have hends := fftRun_endsIn s.cfg m ⟨s.buf.re, s.buf.im⟩
  rw [hm]
  cases hrun : fftRun s.cfg (2 ^ m) ⟨s.buf.re, s.buf.im⟩ with
  | ok sp =>
    rw [hrun] at hends
    exact stays_update fun h => h.storeSpectrum hends
  | error e =>
    rw [hrun] at hends
    exact stays_seq (stays_update fun h => h.storeSpectrum hends.2) fun _ _ => stays_raise (by decide) _

/-- The array the loop of MAG leaves, however it ends. -/
def magLeft : Except (Nat × List U64) (List U64) → List U64
  | .ok out => out
  | .error (_, out) => out

theorem magLoop_length (h : Nat) (b : Buffers) (count i : Nat) (out : List U64) :
    (magLeft (magLoop h b count i out)).length = out.length := by
  induction count generalizing i out with
  | zero => rfl
  | succ count ih =>
    rw [magLoop]
    split
    · exact (ih _ _).trans List.length_set
    · rfl

theorem LegalDuring.storeMag (h : LegalDuring ph s) {out : List U64} (hlen : out.length = s.buf.mag.length) :
    LegalDuring ph (storeMag out s) :=
  h.withBuf { h.buf with mag := hlen.trans h.buf.mag } rfl

theorem stays_magnitude (n : U16) : StaysLegal ph (magnitude n) s := by
  refine stays_look_bind (stays_require_bind fun _ => stays_look_bind ?_)
  have hlen := magLoop_length s.cfg.flk.magPreshift s.buf n.toNat 0 s.buf.mag
  cases hrun : magLoop s.cfg.flk.magPreshift s.buf n.toNat 0 s.buf.mag with
  | ok out =>
    rw [hrun] at hlen
    exact stays_update fun h => h.storeMag hlen
  | error e =>
    rw [hrun] at hlen
    exact stays_seq (stays_update fun h => h.storeMag hlen) fun _ _ => stays_raise (by decide) _

/-! ### Flicker estimator (43_flicker.md R165 to R172) -/

/-- The mean of n samples is at most the largest sample. -/
theorem sampleSum_div_le (l : List U16) (n : Nat) : sampleSum l n / n ≤ 65535 := by
  have hsum : sampleSum l n ≤ n * 65535 := by
    have hle : ∀ v ∈ (l.take n).map (·.toNat), v ≤ 65535 := by
      intro v hv
      obtain ⟨w, -, rfl⟩ := List.mem_map.mp hv
      exact Nat.le_of_lt_succ w.isLt
    calc sampleSum l n
        ≤ ((l.take n).map (·.toNat)).length * 65535 := List.sum_le_card_nsmul _ _ hle
      _ ≤ n * 65535 := by simp
  exact Nat.div_le_of_le_mul hsum

theorem LegalDuring.storeAverages (h : LegalDuring ph s) (n : Nat) : LegalDuring ph (storeAverages n s) := by
  have hmean (l : List U16) : (BitVec.ofNat 32 (sampleSum l n / n)).toNat ≤ 65535 :=
    (Nat.mod_le _ _).trans (sampleSum_div_le l n)
  exact h.withFlk { h.flk with avgC := hmean _, avgW := hmean _ } rfl rfl

theorem stays_frameAverages : StaysLegal ph frameAverages s :=
  stays_look_bind (stays_seq (stays_checkFrameSize _) fun _ _ => stays_update fun h => h.storeAverages _)

theorem stays_gainNormalise : StaysLegal ph gainNormalise s :=
  stays_look_bind (stays_look_bind (stays_look_bind (stays_require_bind fun _ => stays_require_bind fun _ =>
    stays_update fun h => h.withFlk { h.flk with } rfl rfl)))

theorem stays_adaptiveThreshold : StaysLegal ph adaptiveThreshold s :=
  stays_look_bind (stays_ite _ (fun _ => stays_raise (by decide) _) fun _ => stays_ite _
    (fun _ => stays_raise (by decide) _) fun _ => stays_update fun h => h.withFlk { h.flk with } rfl rfl)

/-- The search answers the bin it starts with or one of those it looks at. -/
theorem peakScan_bounds (mag : List U64) {count i best lo hi : Nat} (hbest : lo ≤ best ∧ best ≤ hi) (hlo : lo ≤ i)
    (hhi : i + count ≤ hi + 1) : lo ≤ peakScan mag count i best ∧ peakScan mag count i best ≤ hi := by
  induction count generalizing i best with
  | zero => exact hbest
  | succ count ih =>
    refine ih ?_ (by omega) (by omega)
    split <;> omega

theorem LegalDuring.findPeak (h : LegalDuring ph s) : LegalDuring ph (findPeak s) := by
  have hbin : binLo ≤ Machine.peakBin s.buf.mag ∧ Machine.peakBin s.buf.mag ≤ binHi :=
    peakScan_bounds _ (by decide) (by decide) (by decide)
  have hsmall : binHi < 2 ^ 16 := by decide
  refine h.withFlk { h.flk with peakBin := .inr ?_ } rfl rfl
  show binLo ≤ (BitVec.ofNat 16 (Machine.peakBin s.buf.mag)).toNat ∧ _
  rw [BitVec.toNat_ofNat, Nat.mod_eq_of_lt (hbin.2.trans_lt hsmall)]
  exact hbin

theorem LegalDuring.storeFreq (h : LegalDuring ph s) (f : U32) : LegalDuring ph (storeFreq f s) :=
  h.withFlk { h.flk with } rfl rfl

theorem stays_decideFrequency : StaysLegal ph decideFrequency s :=
  stays_look_bind (stays_require_bind fun _ => stays_ite _
    (fun _ => stays_ite _ (fun _ => stays_raise (by decide) _) fun _ => stays_update fun h => h.storeFreq _)
    fun _ => stays_update fun h => h.storeFreq _)

theorem stays_checkConversion (n : U16) (v : U64) : StaysLegal ph (checkConversion n v) s :=
  stays_require_bind fun _ => stays_require _ _

theorem stays_analyseFrame (n : U16) : StaysLegal ph (analyseFrame n) s :=
  stays_seq stays_deinterleave fun _ _ => stays_seq stays_parseMeta fun _ _ =>
    stays_seq stays_frameAverages fun _ _ => stays_seq stays_gainNormalise fun _ _ =>
      stays_seq stays_window fun _ _ => stays_seq (stays_fft n) fun _ _ =>
        stays_seq (stays_magnitude n) fun _ _ => stays_seq stays_adaptiveThreshold fun _ _ =>
          stays_seq (stays_update LegalDuring.findPeak) fun _ _ => stays_decideFrequency

theorem LegalDuring.clearSaturation (h : LegalDuring ph s) : LegalDuring ph (clearSaturation s) :=
  h.withFlk { h.flk with } rfl rfl

theorem stays_flickerCycle : StaysLegal ph flickerCycle s :=
  stays_seq (stays_update LegalDuring.clearSaturation) fun _ _ => stays_seq stays_drain fun _ _ => stays_ite _
    (fun _ => stays_look_bind (stays_look_bind (stays_seq (stays_onlyIf _ (stays_analyseFrame _)) fun _ _ =>
      stays_seq stays_fifoClear fun _ _ => stays_seq (stays_update LegalDuring.emptyRing) fun _ _ => stays_pure _)))
    fun _ => stays_pure false

/-! ### ALS (45_als.md R202 to R204) -/

theorem cwRatioOf_le (clear wide : Nat) : cwRatioOf clear wide ≤ cwRatioMax := by
  unfold cwRatioOf
  split
  · exact le_rfl
  · exact Nat.min_le_left _ _

/-- Counts that fit their fields: the corrected one is stored exactly, and at most the raw one. -/
theorem corrected_le {count : Nat} (h : count < 2 ^ 32) (ir : Nat) :
    (BitVec.ofNat 32 (count - ir)).toNat ≤ (BitVec.ofNat 32 count).toNat := by
  rw [BitVec.toNat_ofNat, BitVec.toNat_ofNat, Nat.mod_eq_of_lt h]
  exact (Nat.mod_le _ _).trans (Nat.sub_le _ _)

theorem LegalDuring.raiseUpdate (h : LegalDuring ph s) (flags : BitVec 2) : LegalDuring ph (raiseUpdate flags s) :=
  h.withDc rfl rfl rfl fun _ => h.variant

theorem LegalDuring.publishSample (h : LegalDuring ph s) {clear wide : Nat} (hc : clear < 2 ^ 32) (hw : wide < 2 ^ 32)
    (lux : U64) : LegalDuring ph (publishSample clear wide lux s) :=
  (h.withAls (als := (Machine.publishSample clear wide lux s).als) { h.als with
    cwRatio := (Nat.mod_le _ _).trans (cwRatioOf_le clear wide)
    clearCorr := corrected_le hc _
    wideCorr := corrected_le hw _ }).raiseUpdate alsUpd

theorem stays_alsCompute {clear wide : Nat} (hc : clear < 2 ^ 32) (hw : wide < 2 ^ 32) :
    StaysLegal ph (alsCompute clear wide) s :=
  stays_look_bind (stays_ite _ (fun _ => stays_update fun h => h.publishSample hc hw _) fun _ =>
    stays_raise (by decide) _)

theorem rescale_lt {v : U16} (scale : Nat) : rescale v.toNat scale < 2 ^ 32 := by
  have hv := v.isLt
  unfold rescale
  split
  · omega
  · have hle : v.toNat >>> (scale - 1) ≤ v.toNat := Nat.shiftRight_le _ _
    omega

theorem stays_alsSample : StaysLegal ph alsSample s :=
  stays_look_bind (stays_seq (stays_getBuf _ _) fun _ _ => stays_seq (stays_getByte _) fun _ _ =>
    stays_require_bind fun _ => stays_alsCompute (rescale_lt _) (rescale_lt _))

theorem LegalDuring.copyGains (h : LegalDuring ph s) : LegalDuring ph (copyGains s) := h.withAls { h.als with }

theorem stays_alsEquivalent : StaysLegal ph alsEquivalent s :=
  stays_seq (stays_update LegalDuring.copyGains) fun _ _ =>
    stays_look_bind (stays_alsCompute (BitVec.isLt _) (BitVec.isLt _))

/-! ### Event dispatcher (46_dispatch.md R215 to R219) -/

theorem stays_serveFlicker (st : Byte) : StaysLegal ph (serveFlicker st) s :=
  stays_look_bind (stays_look_bind (stays_onlyIf _ (stays_seq stays_flickerCycle fun _ _ => stays_onlyIf _
    (stays_seq stays_alsEquivalent fun _ _ => stays_update fun h => h.raiseUpdate _))))

theorem stays_serveAls (st : Byte) : StaysLegal ph (serveAls st) s :=
  stays_look_bind (stays_look_bind (stays_onlyIf _ stays_alsSample))

theorem stays_writeBack (st : Byte) : StaysLegal ph (writeBack st) s :=
  stays_look_bind (stays_onlyIf _ (stays_setByte _ _))

theorem stays_readStatus : StaysLegal ph readStatus s := stays_look_bind (stays_getByte _)

theorem stays_dispatchPass : StaysLegal ph dispatchPass s :=
  stays_seq stays_readStatus fun st _ => stays_seq (stays_serveFlicker st) fun _ _ =>
    stays_seq (stays_serveAls st) fun _ _ => stays_seq (stays_writeBack st) fun _ _ => stays_readStatus

theorem stays_dispatchLoop (more : Nat) : StaysLegal ph (dispatchLoop more) s := by
  induction more generalizing s with
  | zero => exact stays_dispatchPass
  | succ more ih => exact stays_seq stays_dispatchPass fun _ _ => stays_ite _ (fun _ => stays_pure 0) fun _ => ih

/-- Whatever the phase was, it is Idle after a procedure that ran in the phase Dispatch (R215). -/
theorem inDispatch_endsLegal {α : Type} {p : Proc α} (hp : ∀ t, StaysLegal .dispatch p t) (hs : LegalDuring ph s) :
    EndsLegal .idle (inDispatch p s) := by
  have hends := hp _ (hs.setPhase .dispatch)
  unfold inDispatch
  cases hps : p (setPhase .dispatch s) with
  | ok a t =>
    rw [hps] at hends
    exact LegalDuring.setPhase hends .idle
  | error e t =>
    rw [hps] at hends
    exact ⟨hends.1.setPhase .idle, hends.2⟩

theorem LegalDuring.consumeUpdate (h : LegalDuring ph s) : LegalDuring ph (consumeUpdate s) :=
  (h.withDc (dc := { s.dc with update := 0 }) rfl rfl rfl fun _ => h.variant).withX _

theorem stays_dispatchCapped (n : Nat) : StaysLegal .idle (dispatchCapped n) s :=
  stays_seq (inDispatch_endsLegal fun _ => stays_dispatchLoop (n - 1)) fun _ _ =>
    stays_ite _ (fun _ => stays_update LegalDuring.consumeUpdate) fun _ => stays_raise (by decide) _

theorem LegalDuring.reinitFlicker (h : LegalDuring ph s) : LegalDuring ph (reinitFlicker s) :=
  (h.withFlkBuf (flk := flickerInit s.cfg s.flk.fifoThreshold) (buf := { s.buf with ringLen := 0 })
    (flickerInit_legal h.cfg h.flk.threshold) { h.buf with } ⟨Nat.zero_le _, nofun⟩).windowGenerate

theorem LegalDuring.reinitAls (h : LegalDuring ph s) : LegalDuring ph (reinitAls s) := h.withAls (alsInit_legal s.cfg)

theorem LegalDuring.markEnabled (h : LegalDuring ph s) (flk : Bool) (t : Trigger) :
    LegalDuring ph (markEnabled flk t s) := by
  have hals : AlsLegal s.cfg (Machine.markEnabled flk t s).als := by
    cases flk
    · exact { h.als with }
    · exact h.als
  exact (h.withAls hals).withDc rfl rfl rfl fun _ => h.variant

theorem LegalDuring.storeThreshold (h : LegalDuring ph s) {thr : U16} (h1 : 1 ≤ thr.toNat)
    (hmax : thr.toNat ≤ s.cfg.flk.ringMax) : LegalDuring ph (storeThreshold thr s) :=
  h.withFlkBuf { h.flk with threshold := ⟨h1, hmax⟩ } { h.buf with } ⟨Nat.zero_le _, nofun⟩

end

end Sys2Proof.Machine
end

section
/-! Operations and steps keep a legal state (42_fifo_parser.md R157): an operation ends a procedure, and a step is an
operation or one of HOST's other acts. -/

namespace Sys2Proof.Machine

/-! ### The ending of an operation (60_exceptions.md R255, R256) -/

/-- The sticky bits of the statuses are bits 1 to 8. -/
theorem recordFault_legal {faults : U16} (h : faults &&& 0xFE01 = 0) (code : FaultCode) :
    recordFault faults (statusOf code) &&& 0xFE01 = 0 := by
  have hbit : (1 <<< (statusOf code).toNat : U16) &&& 0xFE01 = 0 := by cases code <;> decide
  rw [recordFault, if_neg (statusOf_ne_zero code), BitVec.and_or_distrib_right, h, hbit]
  exact BitVec.or_zero

/-- A status an operation can end with. -/
theorem statusOf_legal {code : FaultCode} (h : code ≠ .busy) :
    (statusOf code).toNat ≤ 8 ∧ statusOf code ≠ statusOf .busy := by
  cases code with
  | busy => exact absurd rfl h
  | _ => decide

theorem endOperation_zero_legal {s : State} (h : s.Legal) : (endOperation 0 0 s).Legal :=
  { h with dc := { h.dc with lastErr := ⟨Nat.zero_le 8, (statusOf_ne_zero .busy).symm⟩ } }

theorem endOperation_fault_legal {s : State} (h : s.Legal) {code : FaultCode} (hcode : code ≠ .busy) (info : U16) :
    (endOperation (statusOf code) info s).Legal :=
  { h with dc := { h.dc with lastErr := statusOf_legal hcode, faults := recordFault_legal h.dc.faults code } }

theorem finish_legal {r : EStateM.Result Raised State Unit} (h : EndsLegal .idle r) : (finish r).Legal := by
  cases r with
  | ok a t => exact endOperation_zero_legal (legalDuring_idle_iff.mp h)
  | error e t => exact endOperation_fault_legal (legalDuring_idle_iff.mp h.1) h.2 e.info

theorem refuseAll_legal {s : State} (h : s.Legal) (during : List U32) : (refuseAll during s).Legal := by
  induction during generalizing s with
  | nil => exact h
  | cons cw rest ih =>
    exact ih { h with dc := { h.dc with faults := recordFault_legal h.dc.faults .busy } }

/-! ### Operations -/

/-- If an operation answers a next state, that state is legal. -/
def AnswersLegal (o : Outcome) : Prop := ∀ t, o = .next t → t.Legal

section
variable {s : State}

theorem answersLegal_next {t : State} (h : t.Legal) : AnswersLegal (.next t) := by
  rintro _ ⟨⟩
  exact h

theorem answersLegal_complete {p : Proc Unit} (hp : StaysLegal .idle p s) (hs : s.Legal) :
    AnswersLegal (complete p s) :=
  answersLegal_next (finish_legal (hp (legalDuring_idle_iff.mpr hs)))

/-- DISPATCH with either cap (46_dispatch.md R216). -/
theorem answersLegal_dispatch (hs : s.Legal) : AnswersLegal (execDispatch s) := by
  unfold execDispatch
  split
  next n _ => exact answersLegal_complete (stays_dispatchCapped n) hs
  next fuel _ =>
    have hloop := inDispatch_endsLegal (fun _ => stays_dispatchLoop fuel) (legalDuring_idle_iff.mpr hs)
    split
    next st2 u hu =>
      rw [hu] at hloop
      split
      · exact answersLegal_complete (stays_update LegalDuring.consumeUpdate) (legalDuring_idle_iff.mp hloop)
      · rintro _ ⟨⟩
    next e u hu =>
      rw [hu] at hloop
      exact answersLegal_next (finish_legal (r := .error e u) hloop)

/-- IDENT (40_register_access.md R119): an entry found is one of the list, which the two reads do not change. -/
theorem answersLegal_ident (hs : s.Legal) : AnswersLegal (execIdent s) := by
  refine answersLegal_complete (stays_look_bind (stays_bind (stays_getByte _) fun id t ht =>
    stays_bind (stays_getByte _) fun rev u hu => stays_seq (stays_update fun h => ?variant) fun _ _ => ?result)) hs
  case variant =>
    refine h.withDc rfl rfl rfl fun k hk => ?_
    rw [getByte_cfg hu, getByte_cfg ht]
    exact (List.findIdx?_eq_some_iff_getElem.mp hk).1
  case result =>
    split
    · exact stays_setX _ _
    · exact stays_raise (by decide) _

/-- AGCMAXG (44_agc.md R191): a gain code that was checked fits its four bits. -/
theorem LegalDuring.storeMaxGain {ph : Phase} (h : LegalDuring ph s) (wide : Bool) {code : Byte}
    (hcode : code.toNat ≤ maxGainCode) : LegalDuring ph (storeMaxGain wide (code.setWidth 4) s) := by
  have hfit : (code.setWidth 4).toNat ≤ maxGainCode := by
    rw [BitVec.toNat_setWidth]
    exact (Nat.mod_le _ _).trans hcode
  cases wide with
  | false => exact h.withAgc { h.agc with maxGainC := hfit }
  | true => exact h.withAgc { h.agc with maxGainW := hfit }

/-- AGCWIN (44_agc.md R190): the size was checked against the configuration, which the setField does not change. -/
theorem answersLegal_agcwin (size : Byte) (hs : s.Legal) : AnswersLegal (execAgcwin size s) := by
  refine answersLegal_complete (stays_look_bind (stays_require_bind fun hsize =>
    stays_bind (stays_setField _ _ _) fun _ t ht => stays_update fun h => ?_)) hs
  have hwin : size &&& ~~~t.cfg.mask.agcWin = 0 := by
    rw [setField_cfg ht]
    exact eq_of_beq hsize
  exact h.withAgc { h.agc with winSize := hwin }

/-- SETTHR (46_dispatch.md R219): the threshold was checked against the configuration, which the burst does not
change. -/
theorem answersLegal_setthr (thr : U16) (hs : s.Legal) : AnswersLegal (execSetthr thr s) := by
  refine answersLegal_complete (stays_look_bind (stays_require_bind fun hthr =>
    stays_bind (stays_setFields _) fun _ t ht => stays_update fun h => ?_)) hs
  simp only [Bool.and_eq_true, bne_iff_ne, decide_eq_true_eq] at hthr
  obtain ⟨h0, hmax⟩ := hthr
  have hpos : 1 ≤ thr.toNat := Nat.one_le_iff_ne_zero.mpr fun hz => h0 (BitVec.eq_of_toNat_eq hz)
  exact h.storeThreshold hpos (by rw [setFields_cfg ht]; exact hmax)

/-- FEATEN (46_dispatch.md R217): a re-initialisation, a burst, the mode. -/
theorem answersLegal_featen (feat trig : Byte) (hs : s.Legal) : AnswersLegal (execFeaten feat trig s) := by
  refine answersLegal_complete (stays_seq (stays_flagOperand feat) fun flk _ =>
    stays_seq (stays_flagOperand trig) fun _ _ => stays_look_bind (stays_require_bind fun _ =>
      stays_seq (stays_update fun h => ?_) fun _ _ => stays_look_bind (stays_seq (stays_setFields _) fun _ _ =>
        stays_update fun h => h.markEnabled _ _))) hs
  cases flk with
  | false => exact h.reinitAls
  | true => exact h.reinitFlicker

/-- ALSCALC (45_als.md R203): operands below 2^31 fit the raw counts. -/
theorem answersLegal_alscalc (hs : s.Legal) : AnswersLegal (execAlscalc s) := by
  refine answersLegal_complete (stays_look_bind (stays_look_bind (stays_require_bind fun hsmall => ?_))) hs
  simp only [Bool.and_eq_true, decide_eq_true_eq] at hsmall
  exact stays_seq (stays_alsCompute (by omega) (by omega)) fun _ _ => stays_update fun h => h.withX _

end

/-- Every operation from a legal state leaves a legal state. -/
theorem exec_answersLegal (i : Instr) {s : State} (hs : s.Legal) : AnswersLegal (exec i s) := by
  cases i with
  | nop => exact answersLegal_complete (stays_pure ()) hs
  | xli d imm => exact answersLegal_complete (stays_require_bind fun _ => stays_setX _ _) hs
  | xlih d imm =>
    exact answersLegal_complete (stays_require_bind fun _ => stays_look_bind (stays_setX _ _)) hs
  | xmov d src =>
    exact answersLegal_complete (stays_require_bind fun _ => stays_require_bind fun _ =>
      stays_look_bind (stays_setX _ _)) hs
  | brd sel idx => exact answersLegal_complete (stays_result (stays_bufferFetch sel idx) 0 id) hs
  | bwr sel idx => exact answersLegal_complete (stays_look_bind (stays_bufferStore sel idx _)) hs
  | getb reg => exact answersLegal_complete (stays_result (stays_getByte reg) 0 _) hs
  | setb reg val => exact answersLegal_complete (stays_setByte reg val) hs
  | getw reg => exact answersLegal_complete (stays_result (stays_getWord reg) 0 _) hs
  | setw reg val => exact answersLegal_complete (stays_setWord reg val) hs
  | getbuf reg len =>
    exact answersLegal_complete (stays_seq (stays_getBuf reg _) fun bytes _ => stays_update fun h =>
      h.withBuf { h.buf with xfer := (overlay_length _ _ _).trans h.buf.xfer } rfl) hs
  | setbuf reg len => exact answersLegal_complete (stays_look_bind (stays_setBuf reg _)) hs
  | getf reg mask => exact answersLegal_complete (stays_result (stays_getField reg mask) 0 _) hs
  | setf reg val mask => exact answersLegal_complete (stays_result (stays_setField reg val mask) 0 _) hs
  | ident => exact answersLegal_ident hs
  | isqrt => exact answersLegal_complete (stays_look_bind (stays_setX _ _)) hs
  | wingen => exact answersLegal_complete (stays_update LegalDuring.windowGenerate) hs
  | window => exact answersLegal_complete (stays_seq stays_window fun _ _ => stays_update fun h => h.withX _) hs
  | fft n => exact answersLegal_complete (stays_fft n) hs
  | mag n => exact answersLegal_complete (stays_magnitude n) hs
  | drain => exact answersLegal_complete (stays_result stays_drain 0 _) hs
  | deint => exact answersLegal_complete stays_deinterleave hs
  | pmeta => exact answersLegal_complete stays_parseMeta hs
  | fifoclr => exact answersLegal_complete stays_fifoClear hs
  | favg => exact answersLegal_complete (stays_seq stays_frameAverages fun _ _ => stays_update fun h => h.withX _) hs
  | gnorm => exact answersLegal_complete (stays_seq stays_gainNormalise fun _ _ => stays_update fun h => h.withX _) hs
  | thresh =>
    exact answersLegal_complete (stays_seq stays_adaptiveThreshold fun _ _ => stays_update fun h => h.withX _) hs
  | peak =>
    exact answersLegal_complete (stays_seq (stays_update LegalDuring.findPeak) fun _ _ =>
      stays_update fun h => h.withX _) hs
  | fdecide =>
    exact answersLegal_complete (stays_seq stays_decideFrequency fun _ _ => stays_update fun h => h.withX _) hs
  | b2mhz | mhz2b =>
    exact answersLegal_complete (stays_look_bind (stays_look_bind (stays_seq (stays_checkConversion _ _) fun _ _ =>
      stays_look_bind (stays_setX _ _)))) hs
  | flkest => exact answersLegal_complete (stays_result stays_flickerCycle 0 _) hs
  | l2c | c2l =>
    exact answersLegal_complete (stays_look_bind (stays_require_bind fun _ => stays_setX _ _)) hs
  | agcen on =>
    exact answersLegal_complete (stays_seq (stays_flagOperand on) fun _ _ => stays_look_bind (
      stays_seq (stays_setField _ _ _) fun _ _ => stays_seq (stays_setField _ _ _) fun _ _ =>
        stays_update fun h => h.withAgc { h.agc with })) hs
  | agcsat on | agcpred on =>
    exact answersLegal_complete (stays_seq (stays_flagOperand on) fun _ _ => stays_look_bind (
      stays_seq (stays_setField _ _ _) fun _ _ => stays_update fun h => h.withAgc { h.agc with })) hs
  | agcwin size => exact answersLegal_agcwin size hs
  | agcmaxg ch code =>
    exact answersLegal_complete (stays_seq (stays_flagOperand ch) fun wide _ => stays_require_bind fun hcode =>
      stays_look_bind (stays_require_bind fun _ => stays_seq (stays_setField _ _ _) fun _ _ =>
        stays_update fun h => h.storeMaxGain wide (of_decide_eq_true hcode))) hs
  | alssmp => exact answersLegal_complete (stays_seq stays_alsSample fun _ _ => stays_update fun h => h.withX _) hs
  | alscalc => exact answersLegal_alscalc hs
  | alseq => exact answersLegal_complete (stays_seq stays_alsEquivalent fun _ _ => stays_update fun h => h.withX _) hs
  | dispatch => exact answersLegal_dispatch hs
  | featen feat trig => exact answersLegal_featen feat trig hs
  | featdis feat =>
    exact answersLegal_complete (stays_seq (stays_flagOperand feat) fun _ _ => stays_look_bind (
      stays_seq (stays_setFields _) fun _ _ => stays_update fun h => h.withDc rfl rfl rfl fun _ => h.variant)) hs
  | setthr thr => exact answersLegal_setthr thr hs
  | getals | getflk => exact answersLegal_complete (stays_update fun h => h.withX _) hs

/-! ### Steps -/

section
variable {s : State}

theorem answersLegal_ifAttached {o : Outcome} (h : AnswersLegal o) : AnswersLegal (ifAttached s o) := by
  unfold ifAttached
  split
  · split
    · exact h
    · rintro _ ⟨⟩
  · rintro _ ⟨⟩

theorem answersLegal_runCommand (cw : U32) (hs : s.Legal) : AnswersLegal (runCommand cw s) := by
  unfold runCommand
  split
  next i _ => exact exec_answersLegal i hs
  next => exact answersLegal_complete (stays_raise (by decide) _) hs

/-- What HOST or the device does next, whatever it is. -/
theorem hostAct_answersLegal (act : HostAct) (hs : s.Legal) : AnswersLegal (hostAct act s) := by
  cases act with
  | command cw during => exact answersLegal_ifAttached (answersLegal_runCommand cw (refuseAll_legal hs during))
  | writeX r v => exact answersLegal_ifAttached (answersLegal_next { hs with })
  | attach c =>
    rintro t ht
    by_cases hc : configOk c = true
    · obtain rfl := Host.Outcome.next.inj ((attachBlock_of_wellFormed hc s).symm.trans ht)
      exact State.attach_legal hc hs.dev _
    · cases (attachBlock_of_illFormed (Bool.eq_false_iff.mpr hc)).symm.trans ht
  | detach =>
    have hreset := State.attach_legal hs.cfg hs.dev s.inbox
    exact answersLegal_ifAttached (answersLegal_next { hreset with })
  | device act => exact answersLegal_next { hs with dev := deviceAct_deviceLegal hs.dev act }

end

/-- Settles O17: an idle step changes nothing, any other is an act of HOST or of the device. -/
theorem stepKeepsLegality : Obligations.StepKeepsLegality := by
  intro s t hs ht
  cases hin : s.inbox with
  | nil =>
    have hidle : step s = .next s := by simp only [step, takeAct, hin]
    obtain rfl := Host.Outcome.next.inj (hidle.symm.trans ht)
    exact hs
  | cons act rest =>
    rw [step_of_inbox_cons hin] at ht
    exact hostAct_answersLegal act (s := { s with inbox := rest }) { hs with } t ht

end Sys2Proof.Machine
end

section
/-! FIFOCLR and the frame parser (42_fifo_parser.md R150, R154 to R156). -/

namespace Sys2Proof.Machine

/-! ### FIFOCLR (R156) -/

/-- The setField of FIFOCLR. -/
def clearField (c : Config) : FieldWrite := ⟨c.reg.control, c.mask.fifoClr, c.mask.fifoClr⟩

theorem clearField_ok {c : Config} (hc : configOk c = true) : fieldWriteOk c (clearField c) = true :=
  fieldWriteOk_iff.mpr ⟨symbolicId_lt hc (by simp [symbolicIds, clearField]), BitVec.and_not_self _⟩

section
variable {s : State} {b : Bus} {dc : DeviceContext}

theorem fifoClear_done {wrote : Bool} (hc : configOk s.cfg = true)
    (h : fieldDone s.cfg (clearField s.cfg) s.bus s.dc b dc wrote) :
    fifoClear s = .ok () { s with dc := dc, bus := b } :=
  bind_of_ok (setField_done (clearField_ok hc) h) _

theorem fifoClear_fails (hc : configOk s.cfg = true) (h : fieldFails s.cfg (clearField s.cfg) s.bus s.dc b dc) :
    fifoClear s = .error ⟨.transportError, s.cfg.reg.control.setWidth 16⟩ { s with dc := dc, bus := b } :=
  bind_of_error (setField_fails (clearField_ok hc) h) _

end

/-- Settles O40: FIFOCLR ends as the setField it runs. -/
theorem fifoClearSetsControlBit : Obligations.FifoClearSetsControlBit := fun _ hc =>
  ⟨fun _ _ _ h => complete_ok (fifoClear_done hc h), fun _ _ h => complete_transport (fifoClear_fails hc h)⟩

/-! ### The words of the ring (R150) -/

theorem ringWord_toNat (b : Buffers) (off : Nat) :
    (ringWord b off).toNat = (b.ring.getD off 0).toNat + 256 * (b.ring.getD (off + 1) 0).toNat := le16_toNat _ _

theorem ringWord_eq (b : Buffers) (off : Nat) :
    ringWord b off = BitVec.ofNat 16 ((b.ring.getD off 0).toNat + 256 * (b.ring.getD (off + 1) 0).toNat) := by
  rw [← ringWord_toNat, BitVec.ofNat_toNat, BitVec.setWidth_eq]

/-! ### DEINT (R154) -/

/-- The first `n` elements of an array replaced by the values of a function. -/
theorem overlay_map_range_getD {α : Type} {l : List α} {n : Nat} (hn : n ≤ l.length) (f : Nat → α) (i : Nat) (d : α) :
    (overlay l 0 ((List.range n).map f)).getD i d = if i < n then f i else l.getD i d := by
  rw [overlay_getD, List.length_map, List.length_range]
  by_cases hi : i < n
  · rw [if_pos ⟨Nat.zero_le i, by omega, by omega⟩, if_pos hi, List.getD_eq_getElem _ _ (by simpa using hi)]
    simp
  · rw [if_neg (by omega), if_neg hi]

section
variable {s : State}

theorem checkFrameSize_ok {n : U16} (h0 : 0 < n.toNat) (hn : n.toNat ≤ s.cfg.flk.fftMax) :
    checkFrameSize n s = .ok () s := by
  have hne : n ≠ 0 := by
    rintro rfl
    exact absurd h0 (by decide)
  exact require_ok (by rw [bne_iff_ne.mpr hne, decide_eq_true hn, Bool.and_self]) _ _

theorem checkFrameSize_bad {n : U16} (h : n.toNat = 0 ∨ s.cfg.flk.fftMax < n.toNat) :
    checkFrameSize n s = .error ⟨.preconditionViolation, n⟩ s := by
  refine require_bad ?_ _ _
  rcases h with h | h
  · rw [show n = 0 from BitVec.eq_of_toNat_eq h]
    rfl
  · rw [decide_eq_false (Nat.not_le.mpr h), Bool.and_false]

theorem deinterleave_of_badSize
    (h : s.flk.sampleCount.toNat = 0 ∨ s.cfg.flk.fftMax < s.flk.sampleCount.toNat) :
    deinterleave s = .error ⟨.preconditionViolation, s.flk.sampleCount⟩ s :=
  bind_of_error (checkFrameSize_bad h) _

theorem deinterleave_of_short (h0 : 0 < s.flk.sampleCount.toNat) (hn : s.flk.sampleCount.toNat ≤ s.cfg.flk.fftMax)
    (hlen : s.buf.ringLen.toNat < 4 * s.flk.sampleCount.toNat) :
    deinterleave s = .error ⟨.preconditionViolation, s.buf.ringLen⟩ s :=
  (bind_of_ok (checkFrameSize_ok h0 hn) _).trans
    (bind_of_error (require_bad (decide_eq_false (Nat.not_le.mpr hlen)) _ _) _)

theorem deinterleave_of_enough (h0 : 0 < s.flk.sampleCount.toNat) (hn : s.flk.sampleCount.toNat ≤ s.cfg.flk.fftMax)
    (hlen : 4 * s.flk.sampleCount.toNat ≤ s.buf.ringLen.toNat) :
    deinterleave s = .ok () (splitSamples s.flk.sampleCount.toNat s) :=
  (bind_of_ok (checkFrameSize_ok h0 hn) _).trans (bind_of_ok (require_ok (decide_eq_true hlen) _ _) _)

end

/-- Settles O38: the two refusals in their order, then two runs of `n` words stored from index 0 on. -/
theorem deinterleaveSplitsPairs : Obligations.DeinterleaveSplitsPairs := by
  intro s hs n word
  have hword (off : Nat) : word off = ringWord s.buf off := (ringWord_eq _ _).symm
  refine ⟨fun h => complete_refused (deinterleave_of_badSize h), fun h0 hn =>
    ⟨fun hlen => complete_refused (deinterleave_of_short h0 hn hlen), fun hlen =>
      ⟨_, _, complete_ok (deinterleave_of_enough h0 hn hlen), overlay_length _ _ _, overlay_length _ _ _,
        fun i => ?clear, fun i => ?wide⟩⟩⟩
  case clear =>
    rw [hword]
    exact overlay_map_range_getD (by rw [hs.buf.clear]; exact hn) _ i 0
  case wide =>
    rw [hword]
    exact overlay_map_range_getD (by rw [hs.buf.wide]; exact hn) _ i 0

/-! ### PMETA (R155) -/

/-- The gain code of modulator `m` is nibble `m` of the gain word. -/
theorem gainNibbles_getD {nMod m : Nat} (hm : m < nMod) (gw : U16) :
    ((gainNibbles nMod gw).getD m 0).toNat = gw.toNat / 16 ^ m % 16 := by
  have hpow : (16 : Nat) ^ m = 2 ^ (4 * m) := by rw [pow_mul]; norm_num
  rw [List.getD_eq_getElem _ _ (by rwa [gainNibbles_length])]
  simp [gainNibbles, Nat.shiftRight_eq_div_pow, hpow]

section
variable {s : State}

theorem parseMeta_of_short (h : s.buf.ringLen.toNat < frameBytes s.flk) :
    parseMeta s = .error ⟨.preconditionViolation, s.buf.ringLen⟩ s :=
  bind_of_error (require_bad (decide_eq_false (Nat.not_le.mpr h)) _ _) _

theorem parseMeta_of_enough (h : frameBytes s.flk ≤ s.buf.ringLen.toNat) : parseMeta s = .ok () (parseTrailer s) :=
  bind_of_ok (require_ok (decide_eq_true h) _ _) _

end

/-- Settles O39: the length check, then each field at the offset the enabled ones before it leave. -/
theorem metadataFieldsInOrder : Obligations.MetadataFieldsInOrder := by
  intro s _ word one off offC offE size
  have hone (b : Bool) : b.toNat = one b := by cases b <;> rfl
  have hsize : frameBytes s.flk = size := by
    simp only [frameBytes, hone]
    omega
  refine ⟨fun h => complete_refused (parseMeta_of_short (hsize ▸ h)), fun h => ?_⟩
  have hword (o : Nat) : BitVec.ofNat 16 (word o) = ringWord s.buf o := (ringWord_eq _ _).symm
  have hgain (o : Nat) : word o = (ringWord s.buf o).toNat := (ringWord_toNat _ _).symm
  refine ⟨(parseTrailer s).flk.gain, ?done, fun hoff => ?absent, fun hon => ?present⟩
  case done =>
    simp only [hword, offE, offC, ← hone]
    exact complete_ok (parseMeta_of_enough (hsize ▸ h))
  case absent => exact if_neg (by rw [hoff]; exact Bool.false_ne_true)
  case present =>
    have hnibbles : (parseTrailer s).flk.gain = gainNibbles s.cfg.flk.nMod (ringWord s.buf off) := if_pos hon
    rw [hnibbles, hgain]
    exact ⟨gainNibbles_length _ _, fun m hm => gainNibbles_getD hm _⟩

end Sys2Proof.Machine
end

section
/-! DRAIN for every answer of the device (42_fifo_parser.md R151 to R153): the two reads, the chunks that were read, and
the four ways it goes on from there. -/

namespace Sys2Proof.Machine

section
variable {s t u : State} {b b1 b2 : Bus} {dc : DeviceContext} {lvl fst : Byte}

/-! ### The level and the status (R151) -/

theorem fifoLvl_lt {c : Config} (hc : configOk c = true) : c.reg.fifoLvl.toNat < regMax c :=
  symbolicId_lt hc (by simp [symbolicIds])

theorem fifoStat_lt {c : Config} (hc : configOk c = true) : c.reg.fifoStat.toNat < regMax c :=
  symbolicId_lt hc (by simp [symbolicIds])

theorem fifoData_lt {c : Config} (hc : configOk c = true) : c.reg.fifoData.toNat < regMax c :=
  symbolicId_lt hc (by simp [symbolicIds])

theorem pendingBytes_eq (c : Config) (lvl fst : Byte) :
    pendingBytes c lvl fst = lvl.toNat * 2 ^ c.bus.nLow + fst.toNat % 2 ^ c.bus.nLow := by
  rw [pendingBytes, ← Nat.shiftLeft_add_eq_or_of_lt (Nat.mod_lt _ (Nat.two_pow_pos _)), Nat.shiftLeft_eq]

/-- DRAIN from `s` reads this level and this status, and is then in `t`. -/
def Polls (s : State) (lvl fst : Byte) (t : State) : Prop :=
  ∃ u, getByte s.cfg.reg.fifoLvl s = .ok lvl u ∧ getByte s.cfg.reg.fifoStat u = .ok fst t

theorem polls_of_reads (hc : configOk s.cfg = true) (h1 : readOk s.cfg s.bus s.cfg.reg.fifoLvl 1 [lvl] b1)
    (h2 : readOk s.cfg b1 s.cfg.reg.fifoStat 1 [fst] b2) :
    Polls s lvl fst { s with
      dc := noteRead s.cfg s.cfg.reg.fifoStat fst (noteRead s.cfg s.cfg.reg.fifoLvl lvl s.dc), bus := b2 } :=
  ⟨_, getByte_noteRead (fifoLvl_lt hc) h1,
    getByte_noteRead (s := { s with dc := noteRead s.cfg s.cfg.reg.fifoLvl lvl s.dc, bus := b1 }) (fifoStat_lt hc) h2⟩

theorem drain_of_levelFails (hc : configOk s.cfg = true) (h : readFails s.cfg s.bus s.cfg.reg.fifoLvl 1 b) :
    drain s = .error ⟨.transportError, s.cfg.reg.fifoLvl.setWidth 16⟩ { s with dc := countFailure s.dc, bus := b } :=
  bind_of_error (getByte_fail (fifoLvl_lt hc) h) _

theorem drain_of_statusFails (hc : configOk s.cfg = true) (h1 : readOk s.cfg s.bus s.cfg.reg.fifoLvl 1 [lvl] b1)
    (h2 : readFails s.cfg b1 s.cfg.reg.fifoStat 1 b) :
    drain s = .error ⟨.transportError, s.cfg.reg.fifoStat.setWidth 16⟩
      { s with dc := countFailure (noteRead s.cfg s.cfg.reg.fifoLvl lvl s.dc), bus := b } :=
  (bind_of_ok (getByte_noteRead (fifoLvl_lt hc) h1) _).trans (bind_of_error
    (getByte_fail (s := { s with dc := noteRead s.cfg s.cfg.reg.fifoLvl lvl s.dc, bus := b1 }) (fifoStat_lt hc) h2) _)

/-! ### What follows the two reads (R152, R153) -/

/-- Reset-and-abort as DRAIN ends with it. -/
def drainAbort : Proc Bool := do
  resetAndAbort
  pure false

theorem drain_of_overflow (h : Polls s lvl fst t) (hovf : fst &&& s.cfg.mask.fifoOvf ≠ 0) :
    drain s = drainAbort t := by
  obtain ⟨u, h1, h2⟩ := h
  refine (bind_of_ok h1 _).trans ((bind_of_ok h2 _).trans ?_)
  rw [if_pos (bne_iff_ne.mpr hovf)]
  rfl

/-- Without the overflow flag DRAIN goes on as the chunk loop ends. -/
theorem drain_of_noOverflow (h : Polls s lvl fst t) (hovf : fst &&& s.cfg.mask.fifoOvf = 0) {pending : Nat}
    (hp : pendingBytes s.cfg lvl fst = pending) :
    (∀ u, drainChunks pending pending t = .ok true u → drain s = .ok (markReady u).flk.dataReady (markReady u)) ∧
    (∀ u, drainChunks pending pending t = .ok false u → drain s = drainAbort u) ∧
    (∀ e u, drainChunks pending pending t = .error e u → drain s = .error e u) := by
  subst hp
  obtain ⟨v, h1, h2⟩ := h
  have hskip : ¬ (fst &&& s.cfg.mask.fifoOvf != 0) = true := by simp [hovf]
  refine ⟨fun u hu => ?fits, fun u hu => ?full, fun e u hu => ?fails⟩
  all_goals
    refine (bind_of_ok h1 _).trans ((bind_of_ok h2 _).trans ?_)
    rw [if_neg hskip]
  case fits => exact bind_of_ok hu _
  case full => exact bind_of_ok hu _
  case fails => exact bind_of_error hu _

theorem drainAbort_done {wrote : Bool} (hc : configOk t.cfg = true)
    (h : fieldDone t.cfg (clearField t.cfg) t.bus t.dc b dc wrote) :
    drainAbort t = .ok false (emptyRing { t with dc := dc, bus := b }) := by
  have hreset : resetAndAbort t = .ok () (emptyRing { t with dc := dc, bus := b }) :=
    bind_of_ok (fifoClear_done hc h) _
  exact bind_of_ok hreset _

theorem drainAbort_fails (hc : configOk t.cfg = true) (h : fieldFails t.cfg (clearField t.cfg) t.bus t.dc b dc) :
    drainAbort t = .error ⟨.transportError, t.cfg.reg.control.setWidth 16⟩ { t with dc := dc, bus := b } :=
  bind_of_error (bind_of_error (fifoClear_fails hc h) _) _

/-! ### The chunk loop after some chunks (R152) -/

theorem drainChunks_of_none (fuel : Nat) (s : State) : drainChunks fuel 0 s = .ok true s := by
  cases fuel <;> rfl

section
variable {fuel rem : Nat}

theorem drainChunks_of_full (hpos : 0 < rem) (hfuel : rem ≤ fuel)
    (hfull : s.flk.fifoThreshold.toNat < s.buf.ringLen.toNat + min rem s.cfg.bus.xferMax) :
    drainChunks fuel rem s = .ok false s := by
  obtain ⟨fuel, rfl⟩ : ∃ f, fuel = f + 1 := ⟨fuel - 1, by omega⟩
  rw [drainChunks, if_neg (by omega), bind_look]
  simp only [id]
  rw [if_pos hfull, pure_run]

theorem drainChunks_of_readFails (hc : configOk s.cfg = true) (hpos : 0 < rem) (hfuel : rem ≤ fuel)
    (hfit : s.buf.ringLen.toNat + min rem s.cfg.bus.xferMax ≤ s.flk.fifoThreshold.toNat)
    (h : readFails s.cfg s.bus s.cfg.reg.fifoData (min rem s.cfg.bus.xferMax) b) :
    drainChunks fuel rem s = .error ⟨.transportError, s.cfg.reg.fifoData.setWidth 16⟩
      { s with dc := countFailure s.dc, bus := b } := by
  obtain ⟨-, -, -, hmax, -⟩ := configOk_sizes hc
  obtain ⟨fuel, rfl⟩ : ∃ f, fuel = f + 1 := ⟨fuel - 1, by omega⟩
  rw [drainChunks, if_neg (by omega), bind_look]
  simp only [id]
  rw [if_neg (by omega)]
  exact bind_of_error (getBuf_fail (fifoData_lt hc) (by omega) (Nat.min_le_right _ _) h) _

end

/-- A legal state in which the bytes of `chunks` were read and fit: the loop stands after them, with the bytes that
are left and fuel for them. -/
theorem drainChunks_after_read {pending : Nat} {chunks : List (List Byte)} (hs : s.Legal)
    (h : chunksRead s.cfg pending chunks b1 b2)
    (hfit : s.buf.ringLen.toNat + chunks.flatten.length ≤ s.flk.fifoThreshold.toNat) :
    ∃ left, pending - chunks.flatten.length ≤ left ∧
      drainChunks pending pending { s with dc := dc, bus := b1 } =
        drainChunks left (pending - chunks.flatten.length)
          (appended chunks.flatten { s with dc := dc, bus := b2 }) := by
  obtain ⟨-, -, -, hmax, -⟩ := configOk_sizes hs.cfg
  exact drainChunks_read (s := { s with dc := dc, bus := b1 }) hmax (fifoData_lt hs.cfg) h le_rfl hfit
    (hs.flk.threshold.2.trans hs.buf.ring.ge)

/-! ### The operation -/

theorem exec_drain_of_ok {ready : Bool} (h : drain s = .ok ready t) :
    exec .drain s = .next (completed { t with x := t.x.set 0 (flagWord ready) }) :=
  complete_result h flagWord

theorem exec_drain_of_transport {info : U16} (h : drain s = .error ⟨.transportError, info⟩ t) :
    exec .drain s = .next (faulted 1 info t) :=
  complete_transport (bind_of_error h _)

/-- Reset-and-abort in `t` (R153): the setField of the clear bit that succeeds, and the one that fails. -/
theorem exec_drain_of_abort (hrun : drain s = drainAbort t) (hc : configOk t.cfg = true) :
    (∀ b dc wrote, fieldDone t.cfg (clearField t.cfg) t.bus t.dc b dc wrote →
      exec .drain s = .next (completed { emptyRing { t with dc := dc, bus := b } with x := t.x.set 0 0 })) ∧
    (∀ b dc, fieldFails t.cfg (clearField t.cfg) t.bus t.dc b dc →
      exec .drain s = .next (faulted 1 (t.cfg.reg.control.setWidth 16) { t with dc := dc, bus := b })) :=
  ⟨fun _ _ _ h => exec_drain_of_ok (hrun.trans (drainAbort_done hc h)),
    fun _ _ h => exec_drain_of_transport (hrun.trans (drainAbort_fails hc h))⟩

/-- All pending bytes were fetched. -/
theorem exec_drain_of_fetched {pending : Nat} {chunks : List (List Byte)} (hs : s.Legal)
    (hpoll : Polls s lvl fst { s with dc := dc, bus := b1 }) (hovf : fst &&& s.cfg.mask.fifoOvf = 0)
    (hp : pendingBytes s.cfg lvl fst = pending) (hread : chunksRead s.cfg pending chunks b1 b2)
    (hfit : s.buf.ringLen.toNat + chunks.flatten.length ≤ s.flk.fifoThreshold.toNat)
    (hall : chunks.flatten.length = pending) :
    let ready := decide (frameBytes s.flk ≤ s.buf.ringLen.toNat + chunks.flatten.length)
    exec .drain s = .next (completed { appended chunks.flatten { s with dc := dc, bus := b2 } with
      x := s.x.set 0 (if ready = true then 1 else 0), flk := { s.flk with dataReady := ready } }) := by
  intro ready
  have hthr := s.flk.fifoThreshold.isLt
  obtain ⟨left, -, hloop⟩ := drainChunks_after_read (dc := dc) hs hread hfit
  rw [hall, Nat.sub_self, drainChunks_of_none] at hloop
  have hdone := exec_drain_of_ok ((drain_of_noOverflow hpoll hovf hp).1 _ hloop)
  have hlen : (appended chunks.flatten { s with dc := dc, bus := b2 }).buf.ringLen.toNat =
      s.buf.ringLen.toNat + chunks.flatten.length := appended_ringLen (lt_of_le_of_lt hfit hthr)
  rw [markReady_flk_dataReady, flagWord_eq, markReady, hlen] at hdone
  exact hdone

end

/-- Settles O37: the two reads, then the flag, then the loop after the chunks that were read, which is at its end, at a
chunk that does not fit, or at a read that fails. -/
theorem drainAbortsOnOverflow : Obligations.DrainAbortsOnOverflow := by
  intro s hs c info
  refine ⟨fun b hb => exec_drain_of_transport (drain_of_levelFails hs.cfg hb), fun lvl b1 h1 => ?_⟩
  intro dc1
  refine ⟨fun b hb => exec_drain_of_transport (drain_of_statusFails hs.cfg h1 hb), fun fst b2 h2 => ?_⟩
  intro dc pending aborts
  have hpoll := polls_of_reads hs.cfg h1 h2
  refine ⟨fun hovf => ?overflow, fun hovf chunks b3 hread => ?_⟩
  case overflow =>
    have haborts := exec_drain_of_abort (drain_of_overflow hpoll hovf) hs.cfg
    exact haborts
  intro got len next ring ringLen hfit
  obtain ⟨left, hleft, hloop⟩ := drainChunks_after_read (dc := dc) hs hread hfit
  obtain ⟨-, hfull, hfails⟩ := drain_of_noOverflow hpoll hovf (pendingBytes_eq _ _ _)
  have hlen : (appended got { s with dc := dc, bus := b3 }).buf.ringLen.toNat = len :=
    appended_ringLen (lt_of_le_of_lt hfit s.flk.fifoThreshold.isLt)
  refine ⟨fun hall => ?fetched, fun hmore hover => ?full, fun hmore hnext b hb => ?readFails⟩
  case fetched => exact exec_drain_of_fetched hs hpoll hovf (pendingBytes_eq _ _ _) hread hfit hall
  case full =>
    have hstop := drainChunks_of_full (Nat.sub_pos_of_lt hmore) hleft (by rw [hlen]; exact hover)
    have haborts := exec_drain_of_abort (hfull _ (hloop.trans hstop)) hs.cfg
    exact haborts
  case readFails =>
    have hstop := drainChunks_of_readFails (s := appended got { s with dc := dc, bus := b3 }) hs.cfg
      (Nat.sub_pos_of_lt hmore) hleft (by rw [hlen]; exact hnext) hb
    exact exec_drain_of_transport (hfails _ _ (hloop.trans hstop))

end Sys2Proof.Machine
end

section
/-! DRAIN from the reference device (42_fifo_parser.md R151, R152, 20_memory.md R78): the level and the status tell the
length of the FIFO, the data transactions fetch it chunk by chunk, so the FIFO moves into the ring whole. -/

namespace Sys2Proof.Machine

section
variable {c : Config} {d : SimDev} {b : Bus}

/-! ### The level and the status of the reference device (R78) -/

theorem simReadOk_fifoData (n : Nat) :
    simReadOk c d (regAddr c c.reg.fifoData.toNat) n =
      ((List.range n).map fun i => d.fifo.getD i 0, { d with fifo := d.fifo.drop n }) :=
  if_pos rfl

theorem simReadOk_fifoLvl (h : regAddr c c.reg.fifoLvl.toNat ≠ regAddr c c.reg.fifoData.toNat) :
    simReadOk c d (regAddr c c.reg.fifoLvl.toNat) 1 = ([BitVec.ofNat 8 (d.fifo.length / 2 ^ c.bus.nLow)], d) := by
  rw [simReadOk, if_neg h, if_pos ⟨rfl, rfl⟩, Nat.shiftRight_eq_div_pow]

theorem simReadOk_fifoStat (hovf : d.ovf = false)
    (hdata : regAddr c c.reg.fifoStat.toNat ≠ regAddr c c.reg.fifoData.toNat)
    (hlvl : regAddr c c.reg.fifoStat.toNat ≠ regAddr c c.reg.fifoLvl.toNat) :
    simReadOk c d (regAddr c c.reg.fifoStat.toNat) 1 = ([BitVec.ofNat 8 (d.fifo.length % 2 ^ c.bus.nLow)], d) := by
  have hnone : (if d.ovf = true then c.mask.fifoOvf else 0) = 0 := by rw [hovf]; rfl
  rw [simReadOk, if_neg hdata, if_neg fun h => hlvl h.1, if_pos ⟨rfl, rfl⟩, hnone]
  exact congrArg (fun v => ([v], d)) BitVec.or_zero

theorem readOk_fifoLvl (hb : simAnswers b d) (h : regAddr c c.reg.fifoLvl.toNat ≠ regAddr c c.reg.fifoData.toNat) :
    ∃ b', readOk c b c.reg.fifoLvl 1 [BitVec.ofNat 8 (d.fifo.length / 2 ^ c.bus.nLow)] b' ∧ simAnswers b' d := by
  have hread := busRead_of_simAnswers (c := c) hb (regAddr c c.reg.fifoLvl.toNat) 1
  rw [simReadOk_fifoLvl h] at hread
  exact ⟨_, hread, rfl, hb.2⟩

theorem readOk_fifoStat (hb : simAnswers b d) (hovf : d.ovf = false)
    (hdata : regAddr c c.reg.fifoStat.toNat ≠ regAddr c c.reg.fifoData.toNat)
    (hlvl : regAddr c c.reg.fifoStat.toNat ≠ regAddr c c.reg.fifoLvl.toNat) :
    ∃ b', readOk c b c.reg.fifoStat 1 [BitVec.ofNat 8 (d.fifo.length % 2 ^ c.bus.nLow)] b' ∧ simAnswers b' d := by
  have hread := busRead_of_simAnswers (c := c) hb (regAddr c c.reg.fifoStat.toNat) 1
  rw [simReadOk_fifoStat hovf hdata hlvl] at hread
  exact ⟨_, hread, rfl, hb.2⟩

/-- The low status bits as they come in a byte. -/
theorem fifoStat_byte {n len : Nat} (hn : n ≤ 7) : (BitVec.ofNat 8 (len % 2 ^ n)).toNat = len % 2 ^ n := by
  have hlt : len % 2 ^ n < 2 ^ n := Nat.mod_lt _ (Nat.two_pow_pos n)
  have hpow : 2 ^ n ≤ 2 ^ 7 := Nat.pow_le_pow_right two_pos hn
  rw [BitVec.toNat_ofNat, Nat.mod_eq_of_lt (by omega)]

/-- A length that fits the count field is the pending count of its two bytes. -/
theorem pendingBytes_of_length {len : Nat} (hn : c.bus.nLow ≤ 7) (hlen : len < 2 ^ (8 + c.bus.nLow)) :
    pendingBytes c (BitVec.ofNat 8 (len / 2 ^ c.bus.nLow)) (BitVec.ofNat 8 (len % 2 ^ c.bus.nLow)) = len := by
  have hlvl : len / 2 ^ c.bus.nLow < 2 ^ 8 := Nat.div_lt_of_lt_mul (by rwa [pow_add, mul_comm] at hlen)
  rw [pendingBytes_eq, fifoStat_byte hn, Nat.mod_mod, BitVec.toNat_ofNat, Nat.mod_eq_of_lt hlvl, Nat.div_add_mod']

/-- The overflow flag stands above the low bits (00_scope.md R7 (b)). -/
theorem fifoStat_and_overflow {n len : Nat} {ovf : Byte} (hn : n ≤ 7) (hovf : ovf.toNat % 2 ^ n = 0) :
    BitVec.ofNat 8 (len % 2 ^ n) &&& ovf = 0 := by
  apply BitVec.eq_of_toNat_eq
  apply Nat.eq_of_testBit_eq
  intro i
  rw [BitVec.toNat_and, fifoStat_byte hn, Nat.testBit_and, Nat.testBit_mod_two_pow]
  by_cases hi : i < n
  · have hbit : ovf.toNat.testBit i = false := by
      simpa [hovf, hi] using (Nat.testBit_mod_two_pow ovf.toNat n i).symm
    simp [hbit]
  · simp [hi]

/-! ### The data transactions of the reference device -/

theorem map_range_getD_eq_take {α : Type} {l : List α} {n : Nat} (h : n ≤ l.length) (d : α) :
    ((List.range n).map fun i => l.getD i d) = l.take n := by
  apply List.ext_getElem
  · simp [h]
  · intro i h1 h2
    have hi : i < l.length := by simp at h1; omega
    simp [hi]

/-- A chunk no longer than the FIFO takes its first bytes out. -/
theorem readOk_fifoData (hb : simAnswers b d) {n : Nat} (hn : n ≤ d.fifo.length) :
    ∃ b', readOk c b c.reg.fifoData n (d.fifo.take n) b' ∧ simAnswers b' { d with fifo := d.fifo.drop n } := by
  have hread := busRead_of_simAnswers (c := c) hb (regAddr c c.reg.fifoData.toNat) n
  rw [simReadOk_fifoData, map_range_getD_eq_take hn] at hread
  exact ⟨_, hread, rfl, hb.2⟩

/-- Chunk by chunk the whole FIFO is fetched. -/
theorem chunksRead_fifo (hx : 1 ≤ c.bus.xferMax) (hb : simAnswers b d) :
    ∃ chunks b', chunksRead c d.fifo.length chunks b b' ∧ chunks.flatten = d.fifo ∧
      b'.dev = .sim { d with fifo := [] } := by
  induction hlen : d.fifo.length using Nat.strong_induction_on generalizing d b with
  | _ len ih =>
    by_cases hpos : 0 < len
    · have hmin : min len c.bus.xferMax ≤ d.fifo.length := by omega
      obtain ⟨b1, hread, hb1⟩ := readOk_fifoData (c := c) hb hmin
      obtain ⟨chunks, b', hrest, hflat, hdev⟩ := ih (len - min len c.bus.xferMax) (by omega) hb1 (by simp [hlen])
      refine ⟨_ :: chunks, b', ⟨hpos, b1, hread, hrest⟩, ?_, hdev⟩
      rw [List.flatten_cons, hflat, List.take_append_drop]
    · have hnil : d.fifo = [] := List.length_eq_zero_iff.mp (by omega)
      refine ⟨[], b, rfl, hnil.symm, ?_⟩
      rw [hb.1, ← hnil]

end

/-- Settles O36: the two reads give the length, the chunks are the FIFO, and all of it is fetched. -/
theorem drainMovesTheFifo : Obligations.DrainMovesTheFifo := by
  intro s d hs hd hovf c len hlvl hstat hstatLvl hcount hfit
  obtain ⟨-, -, -, hx, hn, hflag⟩ := configOk_sizes hs.cfg
  obtain ⟨b1, hread1, hd1⟩ := readOk_fifoLvl hd hlvl
  obtain ⟨b2, hread2, hd2⟩ := readOk_fifoStat hd1 hovf hstat hstatLvl
  obtain ⟨chunks, bus, hchunks, hflat, hdev⟩ := chunksRead_fifo hx hd2
  have hdone := exec_drain_of_fetched hs (polls_of_reads hs.cfg hread1 hread2) (fifoStat_and_overflow hn hflag)
    (pendingBytes_of_length hn hcount) hchunks (by rw [hflat]; exact hfit) (by rw [hflat])
  rw [hflat] at hdone
  exact ⟨_, _, bus, hdone, hdev, rfl, rfl⟩

end Sys2Proof.Machine
end

section
/-! The steps of the flicker estimator (43_flicker.md R165 to R171): what each procedure does in each of its cases, and
the operation that writes its results. -/

namespace Sys2Proof.Machine

/-! ### Operations that write values of the state they leave -/

section
variable {p : Proc Unit} {s t : State}

/-- One value of the state the procedure left, put in `x[0]`. -/
theorem complete_value (h : p s = .ok () t) (f : State → U64) :
    complete (p >>= fun _ => update fun u => setX 0 (f u) u) s = .next (completed { t with x := t.x.set 0 (f t) }) := by
  rw [← setX_zero]
  exact complete_ok (bind_of_ok h _)

/-- Two values of the state the procedure left, put in `x[0]` and `x[1]`. -/
theorem complete_values (h : p s = .ok () t) (f g : State → U64) :
    complete (p >>= fun _ => update fun u => setX 1 (g u) (setX 0 (f u) u)) s =
      .next (completed { t with x := (t.x.set 0 (f t)).set 1 (g t) }) := by
  have hx : setX 1 (g t) (setX 0 (f t) t) = { t with x := (t.x.set 0 (f t)).set 1 (g t) } := by
    rw [setX_zero, setX_of_lt (by decide)]
  rw [← hx]
  exact complete_ok (bind_of_ok h _)

end

/-- A number that fits a word is the same number in a word of any other width. -/
theorem setWidth_ofNat_of_lt {w m : Nat} (h : m < 2 ^ w) (v : Nat) :
    (BitVec.ofNat w m).setWidth v = BitVec.ofNat v m := by
  rw [setWidth_eq_ofNat, BitVec.toNat_ofNat, Nat.mod_eq_of_lt h]

/-! ### FAVG (R165) -/

section
variable {s : State}

theorem frameAverages_of_badSize (h : s.flk.sampleCount.toNat = 0 ∨ s.cfg.flk.fftMax < s.flk.sampleCount.toNat) :
    frameAverages s = .error ⟨.preconditionViolation, s.flk.sampleCount⟩ s :=
  bind_of_error (checkFrameSize_bad h) _

theorem frameAverages_of_size (h0 : 0 < s.flk.sampleCount.toNat) (hn : s.flk.sampleCount.toNat ≤ s.cfg.flk.fftMax) :
    frameAverages s = .ok () (storeAverages s.flk.sampleCount.toNat s) :=
  bind_of_ok (checkFrameSize_ok h0 hn) _

theorem sum_range_getD_eq_sampleSum {l : List U16} {n : Nat} (hn : n ≤ l.length) :
    ((List.range n).map fun i => (l.getD i 0).toNat).sum = sampleSum l n := by
  rw [sampleSum, ← map_range_getD_eq_take hn 0, List.map_map]
  rfl

/-- A mean is returned in `x` as it is stored. -/
theorem setWidth_mean (l : List U16) (n : Nat) :
    (BitVec.ofNat 32 (sampleSum l n / n)).setWidth 64 = BitVec.ofNat 64 (sampleSum l n / n) :=
  setWidth_ofNat_of_lt ((sampleSum_div_le l n).trans_lt (by decide)) 64

end

/-- Settles O41: the sums over the first n elements are those FAVG divides, and a mean fits the word it is stored in. -/
theorem frameAveragesAreMeans : Obligations.FrameAveragesAreMeans := by
  intro s hs n mean
  refine ⟨fun h => complete_refused (bind_of_error (frameAverages_of_badSize h) _), fun h0 hn => ?_⟩
  have hmean {l : List U16} (hl : l.length = s.cfg.flk.fftMax) : mean l = sampleSum l n / n :=
    congrArg (· / n) (sum_range_getD_eq_sampleSum (hn.trans hl.ge))
  rw [hmean hs.buf.clear, hmean hs.buf.wide, ← setWidth_mean, ← setWidth_mean]
  exact complete_values (frameAverages_of_size h0 hn) (·.flk.avgC.setWidth 64) (·.flk.avgW.setWidth 64)

/-! ### GNORM (R166) -/

section
variable {s : State}

theorem gainNormalise_of_badClear (h : maxGainCode < (gainOf s s.cfg.flk.modClear).toNat) :
    gainNormalise s = .error ⟨.preconditionViolation, (gainOf s s.cfg.flk.modClear).setWidth 16⟩ s :=
  bind_of_error (require_bad (decide_eq_false (Nat.not_le.mpr h)) _ _) _

theorem gainNormalise_of_badWide (hC : (gainOf s s.cfg.flk.modClear).toNat ≤ maxGainCode)
    (h : maxGainCode < (gainOf s s.cfg.flk.modWide).toNat) :
    gainNormalise s = .error ⟨.preconditionViolation, (gainOf s s.cfg.flk.modWide).setWidth 16⟩ s :=
  (bind_of_ok (require_ok (decide_eq_true hC) _ _) _).trans
    (bind_of_error (require_bad (decide_eq_false (Nat.not_le.mpr h)) _ _) _)

theorem gainNormalise_of_codes (hC : (gainOf s s.cfg.flk.modClear).toNat ≤ maxGainCode)
    (hW : (gainOf s s.cfg.flk.modWide).toNat ≤ maxGainCode) :
    gainNormalise s = .ok () { s with flk := { s.flk with
      normC := normalise s.cfg s.flk.avgC (gainOf s s.cfg.flk.modClear)
      normW := normalise s.cfg s.flk.avgW (gainOf s s.cfg.flk.modWide) } } :=
  (bind_of_ok (require_ok (decide_eq_true hC) _ _) _).trans (bind_of_ok (require_ok (decide_eq_true hW) _ _) _)

end

/-- Settles O42: the two refusals in their order, then the two quotients. -/
theorem gainNormalisation : Obligations.GainNormalisation := fun _ _ =>
  ⟨fun hC => complete_refused (bind_of_error (gainNormalise_of_badClear hC) _),
    fun hC hW => complete_refused (bind_of_error (gainNormalise_of_badWide hC hW) _),
    fun hC hW => complete_values (gainNormalise_of_codes hC hW) (·.flk.normC) (·.flk.normW)⟩

/-! ### THRESH (R167) -/

/-- The threshold THRESH computes from the state. -/
def thresholdOf (s : State) : Nat := thresholdValue s.cfg (s.buf.mag.getD 0 0).toNat s.flk.normC.toNat

section
variable {s : State}

theorem adaptiveThreshold_of_dark (h : s.flk.normC = 0) :
    adaptiveThreshold s = .error ⟨.divideByZero, 0⟩ s := by
  rw [adaptiveThreshold, bind_look, id, if_pos h, raise_run]

theorem adaptiveThreshold_of_overflow (h : s.flk.normC ≠ 0) (ht : 2 ^ 64 ≤ thresholdOf s) :
    adaptiveThreshold s = .error ⟨.arithOverflow, 0⟩ s := by
  rw [adaptiveThreshold, bind_look, id, if_neg h]
  exact congrFun (if_pos ht) s

theorem adaptiveThreshold_of_fits (h : s.flk.normC ≠ 0) (ht : thresholdOf s < 2 ^ 64) :
    adaptiveThreshold s = .ok () { s with flk := { s.flk with thresh := BitVec.ofNat 64 (thresholdOf s) } } := by
  rw [adaptiveThreshold, bind_look, id, if_neg h]
  exact congrFun (if_neg (Nat.not_le.mpr ht)) s

end

/-- Settles O43: the two faults of the procedure, then the value that fits. (`adaptiveThreshold` is the procedure.) -/
theorem adaptiveThreshold_holds : Obligations.AdaptiveThreshold := fun _ =>
  ⟨fun h => complete_fault (bind_of_error (adaptiveThreshold_of_dark h) _),
    fun h ht => complete_fault (bind_of_error (adaptiveThreshold_of_overflow h ht) _),
    fun h ht => complete_value (adaptiveThreshold_of_fits h ht) (·.flk.thresh)⟩

/-! ### PEAK (R168) -/

/-- Bin `b` is the first of the largest magnitudes among the bins from `lo` on, below `stop`. -/
structure FirstMaximum (mag : List U64) (lo stop b : Nat) : Prop where
  lo_le : lo ≤ b
  lt_stop : b < stop
  largest : ∀ i, lo ≤ i → i < stop → (mag.getD i 0).toNat ≤ (mag.getD b 0).toNat
  first : ∀ i, lo ≤ i → i < b → (mag.getD i 0).toNat < (mag.getD b 0).toNat

section
variable {mag : List U64} {lo stop best : Nat}

theorem firstMaximum_single (mag : List U64) (lo : Nat) : FirstMaximum mag lo (lo + 1) lo where
  lo_le := Nat.le_refl lo
  lt_stop := Nat.lt_succ_self lo
  largest i h1 h2 := by rw [Nat.le_antisymm (Nat.le_of_lt_succ h2) h1]
  first i h1 h2 := absurd h2 (Nat.not_lt.mpr h1)

/-- One more bin: it is taken only if it is strictly larger than the best so far. -/
theorem FirstMaximum.next (h : FirstMaximum mag lo stop best) :
    FirstMaximum mag lo (stop + 1) (if (mag.getD best 0).toNat < (mag.getD stop 0).toNat then stop else best) := by
  obtain ⟨hlo, hstop, hlargest, hfirst⟩ := h
  split
  case isTrue hlarger =>
    have hbelow (i : Nat) (h1 : lo ≤ i) (h2 : i < stop) : (mag.getD i 0).toNat < (mag.getD stop 0).toNat :=
      (hlargest i h1 h2).trans_lt hlarger
    refine ⟨hlo.trans hstop.le, Nat.lt_succ_self stop, fun i h1 h2 => ?_, hbelow⟩
    rcases Nat.lt_succ_iff_lt_or_eq.mp h2 with h2 | rfl
    · exact (hbelow i h1 h2).le
    · exact Nat.le_refl _
  case isFalse hnot =>
    refine ⟨hlo, hstop.trans (Nat.lt_succ_self stop), fun i h1 h2 => ?_, hfirst⟩
    rcases Nat.lt_succ_iff_lt_or_eq.mp h2 with h2 | rfl
    · exact hlargest i h1 h2
    · exact Nat.not_lt.mp hnot

theorem peakScan_firstMaximum (h : FirstMaximum mag lo stop best) (count : Nat) :
    FirstMaximum mag lo (stop + count) (peakScan mag count stop best) := by
  induction count generalizing stop best with
  | zero => exact h
  | succ count ih =>
    rw [peakScan, Nat.add_comm count 1, ← Nat.add_assoc]
    exact ih h.next

end

theorem peakBin_firstMaximum (mag : List U64) : FirstMaximum mag binLo (binHi + 1) (peakBin mag) :=
  peakScan_firstMaximum (firstMaximum_single mag binLo) (binHi - binLo)

/-- Settles O44: the bin the scan ends at is the first maximum of the bins from 5 to 50. -/
theorem peakIsFirstMaximum : Obligations.PeakIsFirstMaximum := by
  intro s
  obtain ⟨hlo, hstop, hlargest, hfirst⟩ := peakBin_firstMaximum s.buf.mag
  have hbin : peakBin s.buf.mag ≤ 50 := Nat.le_of_lt_succ hstop
  refine ⟨peakBin s.buf.mag, hlo, hbin, fun i h1 h2 => hlargest i h1 (Nat.lt_succ_of_le h2), hfirst, ?_⟩
  rw [← setWidth_ofNat_of_lt (w := 16) (hbin.trans_lt (by decide)) 64]
  exact complete_values (update_run findPeak s) (fun t => t.flk.peakBin.setWidth 64) (·.flk.peakMag)

/-! ### FDECIDE (R169) -/

/-- The frequency of the peak, over the integers. -/
def peakFrequency (s : State) : Nat := binToMhz s.cfg s.flk.peakBin.toNat s.flk.sampleCount.toNat

section
variable {s : State}

theorem sampleCount_bne_zero (h : s.flk.sampleCount.toNat ≠ 0) : (s.flk.sampleCount != 0) = true :=
  bne_iff_ne.mpr fun h0 => h (by rw [h0]; rfl)

theorem sampleCount_bne_zero_of_zero (h : s.flk.sampleCount.toNat = 0) : (s.flk.sampleCount != 0) = false := by
  rw [show s.flk.sampleCount = 0 from BitVec.eq_of_toNat_eq h]
  rfl

theorem decideFrequency_of_empty (h : s.flk.sampleCount.toNat = 0) :
    decideFrequency s = .error ⟨.preconditionViolation, 0⟩ s :=
  bind_of_error (require_bad (sampleCount_bne_zero_of_zero h) _ _) _

theorem decideFrequency_of_below (hn : s.flk.sampleCount.toNat ≠ 0) (h : s.flk.peakMag.toNat ≤ s.flk.thresh.toNat) :
    decideFrequency s = .ok () (storeFreq 0 s) :=
  (bind_of_ok (require_ok (sampleCount_bne_zero hn) _ _) _).trans (congrFun (if_neg (Nat.not_lt.mpr h)) s)

theorem decideFrequency_of_overflow (hn : s.flk.sampleCount.toNat ≠ 0) (h : s.flk.thresh.toNat < s.flk.peakMag.toNat)
    (hf : 2 ^ 32 ≤ peakFrequency s) : decideFrequency s = .error ⟨.arithOverflow, s.flk.peakBin⟩ s :=
  (bind_of_ok (require_ok (sampleCount_bne_zero hn) _ _) _).trans
    ((congrFun (if_pos h) s).trans (congrFun (if_pos hf) s))

theorem decideFrequency_of_fits (hn : s.flk.sampleCount.toNat ≠ 0) (h : s.flk.thresh.toNat < s.flk.peakMag.toNat)
    (hf : peakFrequency s < 2 ^ 32) : decideFrequency s = .ok () (storeFreq (BitVec.ofNat 32 (peakFrequency s)) s) :=
  (bind_of_ok (require_ok (sampleCount_bne_zero hn) _ _) _).trans
    ((congrFun (if_pos h) s).trans (congrFun (if_neg (Nat.not_le.mpr hf)) s))

end

/-- Settles O45: the refusal, then the comparison with the threshold, then the one with 2^32. -/
theorem frequencyDecision : Obligations.FrequencyDecision := by
  intro s n f
  refine ⟨fun h => ?empty, fun hn h => ?below, fun hn h => ⟨fun hf => ?overflow, fun hf => ?fits⟩⟩
  case empty => exact complete_refused (bind_of_error (decideFrequency_of_empty h) _)
  case below => exact complete_value (decideFrequency_of_below hn h) fun t => t.flk.freq.setWidth 64
  case overflow => exact complete_fault (bind_of_error (decideFrequency_of_overflow hn h hf) _)
  case fits =>
    rw [← setWidth_ofNat_of_lt hf 64]
    exact complete_value (decideFrequency_of_fits hn h hf) fun t => t.flk.freq.setWidth 64

/-! ### B2MHZ and MHZ2B (R170, R171) -/

section
variable {s : State}

theorem checkConversion_of_empty (h : s.flk.sampleCount.toNat = 0) (v : U64) :
    checkConversion s.flk.sampleCount v s = .error ⟨.preconditionViolation, 0⟩ s :=
  bind_of_error (require_bad (sampleCount_bne_zero_of_zero h) _ _) _

theorem checkConversion_of_large (hn : s.flk.sampleCount.toNat ≠ 0) {v : U64} (hv : 2 ^ 32 ≤ v.toNat) :
    checkConversion s.flk.sampleCount v s = .error ⟨.preconditionViolation, BitVec.ofNat 16 v.toNat⟩ s := by
  rw [← setWidth_eq_ofNat]
  exact (bind_of_ok (require_ok (sampleCount_bne_zero hn) _ _) _).trans
    (require_bad (decide_eq_false (Nat.not_lt.mpr hv)) _ _)

theorem checkConversion_ok (hn : s.flk.sampleCount.toNat ≠ 0) {v : U64} (hv : v.toNat < 2 ^ 32) :
    checkConversion s.flk.sampleCount v s = .ok () s :=
  (bind_of_ok (require_ok (sampleCount_bne_zero hn) _ _) _).trans (require_ok (decide_eq_true hv) _ _)

/-- Both conversions: the checks on N and on `x[1]`, then a value computed from the two. -/
def convert (f : Config → Nat → Nat → Nat) : Proc Unit := do
  let n ← look (·.flk.sampleCount)
  let v ← look (getX · 1)
  checkConversion n v
  let c ← look (·.cfg)
  update (setX 0 (BitVec.ofNat 64 (f c v.toNat n.toNat)))

theorem exec_b2mhz (s : State) : exec .b2mhz s = complete (convert binToMhz) s := rfl

theorem exec_mhz2b (s : State) : exec .mhz2b s = complete (convert mhzToBin) s := rfl

theorem getX_one (s : State) : getX s 1 = s.x[1] := getX_of_lt (by decide) s

variable (f : Config → Nat → Nat → Nat)

theorem complete_convert_of_empty (h : s.flk.sampleCount.toNat = 0) :
    complete (convert f) s = .next (faulted 3 0 s) :=
  complete_refused (bind_of_error (checkConversion_of_empty h _) _)

theorem complete_convert_of_large (hn : s.flk.sampleCount.toNat ≠ 0) (hv : 2 ^ 32 ≤ (s.x[1]).toNat) :
    complete (convert f) s = .next (faulted 3 (BitVec.ofNat 16 (s.x[1]).toNat) s) := by
  rw [← getX_one] at hv ⊢
  exact complete_refused (bind_of_error (checkConversion_of_large hn hv) _)

theorem complete_convert_of_fits (hn : s.flk.sampleCount.toNat ≠ 0) (hv : (s.x[1]).toNat < 2 ^ 32) :
    complete (convert f) s = .next (completed { s with
      x := s.x.set 0 (BitVec.ofNat 64 (f s.cfg (s.x[1]).toNat s.flk.sampleCount.toNat)) }) := by
  rw [← getX_one] at hv ⊢
  rw [← setX_zero]
  exact complete_ok (bind_of_ok (checkConversion_ok hn hv) _)

end

theorem exec_xmov_one_zero (s : State) :
    exec (.xmov 1 0) s = .next (completed { s with x := s.x.set 1 s.x[0] }) := by
  have hget : getX s 0 = s.x[0] := getX_of_lt (by decide) s
  rw [← hget, ← setX_of_lt (r := 1)]
  exact complete_ok ((bind_of_ok (checkRegNumber_ok (by decide)) _).trans
    (bind_of_ok (checkRegNumber_ok (by decide)) _))

/-- The bin of a frequency, moved to `x[1]` and converted back. -/
theorem mhz2b_xmov_b2mhz {s : State} (hn : s.flk.sampleCount.toNat ≠ 0) (hf : (s.x[1]).toNat < 2 ^ 32)
    (hbin : mhzToBin s.cfg (s.x[1]).toNat s.flk.sampleCount.toNat < 2 ^ 32) :
    ∃ t u v, exec .mhz2b s = .next t ∧ exec (.xmov 1 0) t = .next u ∧ exec .b2mhz u = .next v ∧ v.dc.lastErr = 0 ∧
      v.x[0] = BitVec.ofNat 64 (binToMhz s.cfg (mhzToBin s.cfg (s.x[1]).toNat s.flk.sampleCount.toNat)
        s.flk.sampleCount.toNat) := by
  have hfirst := complete_convert_of_fits mhzToBin hn hf
  generalize mhzToBin s.cfg (s.x[1]).toNat s.flk.sampleCount.toNat = bin at hbin hfirst ⊢
  let t := completed { s with x := s.x.set 0 (BitVec.ofNat 64 bin) }
  let u := completed { t with x := t.x.set 1 t.x[0] }
  have hmoved : (u.x[1]).toNat = bin := by
    have h1 : u.x[1] = BitVec.ofNat 64 bin := by simp [u, t]
    rw [h1, BitVec.toNat_ofNat, Nat.mod_eq_of_lt (hbin.trans (by decide))]
  have hback := complete_convert_of_fits (s := u) binToMhz hn (hmoved.trans_lt hbin)
  rw [hmoved] at hback
  refine ⟨t, u, _, hfirst, exec_xmov_one_zero t, hback, rfl, ?_⟩
  rw [completed_x, Vector.getElem_set_self]
  rfl

/-- The two floors one after the other lose less than a bin's resolution plus 1. -/
theorem floor_roundTrip {n f rate : Nat} (hn : n ≠ 0) (hrate : 0 < rate) :
    f * n / rate * rate / n ≤ f ∧ (f - f * n / rate * rate / n) * n < rate + n := by
  have hbin : f * n / rate * rate ≤ f * n ∧ f * n < f * n / rate * rate + rate :=
    ⟨Nat.div_mul_le_self _ _, Nat.lt_div_mul_add hrate⟩
  generalize f * n / rate * rate = back at hbin ⊢
  have hdiv : back / n * n ≤ back ∧ back < back / n * n + n :=
    ⟨Nat.div_mul_le_self _ _, Nat.lt_div_mul_add (Nat.pos_of_ne_zero hn)⟩
  refine ⟨Nat.div_le_of_le_mul (by rw [Nat.mul_comm]; exact hbin.1), ?_⟩
  rw [Nat.sub_mul]
  omega

/-- Settles O46: both operations are one conversion; the round trip runs it twice, and its value is the two floors. -/
theorem binFrequencyConversions : Obligations.BinFrequencyConversions := by
  refine ⟨fun s => ?cases, fun s => ?roundTrip⟩
  case cases =>
    simp only [exec_b2mhz, exec_mhz2b]
    exact ⟨fun h => ⟨complete_convert_of_empty _ h, complete_convert_of_empty _ h⟩,
      fun hn hv => ⟨complete_convert_of_large _ hn hv, complete_convert_of_large _ hn hv⟩,
      fun hn hv => ⟨complete_convert_of_fits _ hn hv, complete_convert_of_fits _ hn hv⟩⟩
  case roundTrip =>
    intro n f rate hn hf hrate hbin
    obtain ⟨t, u, v, hfirst, hmove, hback, hdone, hx⟩ := mhz2b_xmov_b2mhz hn hf hbin
    obtain ⟨hle, hloss⟩ := floor_roundTrip (f := f) hn hrate
    have hvalue : (v.x[0]).toNat = f * n / rate * rate / n := by
      rw [hx, BitVec.toNat_ofNat]
      exact Nat.mod_eq_of_lt (hle.trans_lt (hf.trans (by decide)))
    rw [← hvalue] at hle hloss
    exact ⟨t, u, v, hfirst, hmove, hback, hdone, hle, hloss⟩

end Sys2Proof.Machine
end

section
/-! FLKEST (43_flicker.md R172): the drain, the analysis, which touches nothing the drain left for the next cycle, and
the end of the cycle. -/

namespace Sys2Proof.Machine

section
variable {s t u : State} {done : Bool} {status : Byte} {info : U16}

/-! ### The drain -/

theorem callReturns_drain_iff (ready : Bool) : callReturns .drain s (flagWord ready) t ↔ drain s = .ok ready t := by
  rw [callReturns_iff isProcedure_drain]
  constructor
  · rintro ⟨a, h, hword⟩
    rw [Vector.getElem_setIfInBounds_self] at hword
    have hsame : a = ready := by
      revert hword
      cases a <;> cases ready <;> decide
    rwa [← hsame]
  · exact fun h => ⟨ready, h, Vector.getElem_setIfInBounds_self ..⟩

/-- DRAIN answers that a frame is buffered only where it has set data-ready. -/
theorem drain_dataReady (h : drain s = .ok true t) : t.flk.dataReady = true := by
  have hfalse {p : Proc Unit} {w : State} (hp : (p >>= fun _ => (pure false : Proc Bool)) w = .ok true t) : False := by
    obtain ⟨_, _, -, hend⟩ := bind_eq_ok.mp hp
    exact nomatch hend
  unfold drain at h
  rw [bind_look] at h
  obtain ⟨lvl, u1, -, h⟩ := bind_eq_ok.mp h
  obtain ⟨fst, u2, -, h⟩ := bind_eq_ok.mp h
  split at h
  case isTrue => exact (hfalse h).elim
  case isFalse =>
    obtain ⟨fits, u3, -, h⟩ := bind_eq_ok.mp h
    cases fits
    case false => exact (hfalse h).elim
    case true =>
      obtain ⟨hready, rfl⟩ := (EStateM.Result.ok.injEq ..).mp h
      exact hready

/-! ### The analysis -/

/-- What the drain left for the next cycle is as it was: the transactions made, data-ready, and the ring. -/
structure DrainKept (s t : State) : Prop where
  bus : t.bus = s.bus
  dataReady : t.flk.dataReady = s.flk.dataReady
  ring : t.buf.ring = s.buf.ring
  ringLen : t.buf.ringLen = s.buf.ringLen

theorem DrainKept.refl (s : State) : DrainKept s s := ⟨rfl, rfl, rfl, rfl⟩

theorem DrainKept.trans (s t u : State) (h : DrainKept s t) (k : DrainKept t u) : DrainKept s u :=
  ⟨k.bus.trans h.bus, k.dataReady.trans h.dataReady, k.ring.trans h.ring, k.ringLen.trans h.ringLen⟩

section
variable {α β : Type}

theorem drainKept_bind {p : Proc α} {k : α → Proc β} (hp : Keeps DrainKept p) (hk : ∀ a, Keeps DrainKept (k a)) :
    Keeps DrainKept (p >>= k) :=
  keeps_bind DrainKept.trans hp hk

theorem drainKept_look_bind {f : State → α} {k : α → Proc β} (hk : ∀ a, Keeps DrainKept (k a)) :
    Keeps DrainKept (look f >>= k) :=
  drainKept_bind (keeps_look DrainKept.refl f) hk

theorem drainKept_require_bind {ok : Bool} {info : U16} {k : Unit → Proc β} (hk : ∀ a, Keeps DrainKept (k a)) :
    Keeps DrainKept (require ok info >>= k) :=
  drainKept_bind (keeps_require DrainKept.refl ok info) hk

theorem drainKept_raise (code : FaultCode) (info : U16) : Keeps DrainKept (raise code info : Proc α) :=
  keeps_raise DrainKept.refl code info

end

theorem drainKept_checkFrameSize (n : U16) : Keeps DrainKept (checkFrameSize n) :=
  drainKept_look_bind fun _ => keeps_require DrainKept.refl _ _

theorem drainKept_deinterleave : Keeps DrainKept deinterleave :=
  drainKept_look_bind fun _ => drainKept_bind (drainKept_checkFrameSize _) fun _ => drainKept_look_bind fun _ =>
    drainKept_require_bind fun _ => keeps_update fun _ => ⟨rfl, rfl, rfl, rfl⟩

theorem drainKept_parseMeta : Keeps DrainKept parseMeta :=
  drainKept_look_bind fun _ => drainKept_require_bind fun _ => keeps_update fun _ => ⟨rfl, rfl, rfl, rfl⟩

theorem drainKept_frameAverages : Keeps DrainKept frameAverages :=
  drainKept_look_bind fun _ => drainKept_bind (drainKept_checkFrameSize _) fun _ =>
    keeps_update fun _ => ⟨rfl, rfl, rfl, rfl⟩

theorem drainKept_gainNormalise : Keeps DrainKept gainNormalise :=
  drainKept_look_bind fun _ => drainKept_look_bind fun _ => drainKept_look_bind fun _ =>
    drainKept_require_bind fun _ => drainKept_require_bind fun _ => keeps_update fun _ => ⟨rfl, rfl, rfl, rfl⟩

theorem drainKept_window : Keeps DrainKept window :=
  drainKept_look_bind fun _ => drainKept_require_bind fun _ => keeps_update fun _ => ⟨rfl, rfl, rfl, rfl⟩

theorem drainKept_fft (n : U16) : Keeps DrainKept (fft n) := by
  refine drainKept_look_bind fun _ => keeps_ite _ (keeps_pure DrainKept.refl ()) (drainKept_require_bind fun _ =>
    drainKept_look_bind fun _ => ?_)
  split
  · exact keeps_update fun _ => ⟨rfl, rfl, rfl, rfl⟩
  · exact drainKept_bind (keeps_update fun _ => ⟨rfl, rfl, rfl, rfl⟩) fun _ => drainKept_raise _ _

theorem drainKept_magnitude (n : U16) : Keeps DrainKept (magnitude n) := by
  refine drainKept_look_bind fun _ => drainKept_require_bind fun _ => drainKept_look_bind fun _ => ?_
  split
  · exact keeps_update fun _ => ⟨rfl, rfl, rfl, rfl⟩
  · exact drainKept_bind (keeps_update fun _ => ⟨rfl, rfl, rfl, rfl⟩) fun _ => drainKept_raise _ _

theorem drainKept_adaptiveThreshold : Keeps DrainKept adaptiveThreshold :=
  drainKept_look_bind fun _ => keeps_ite _ (drainKept_raise _ _) (keeps_ite _ (drainKept_raise _ _)
    (keeps_update fun _ => ⟨rfl, rfl, rfl, rfl⟩))

theorem drainKept_decideFrequency : Keeps DrainKept decideFrequency :=
  drainKept_look_bind fun _ => drainKept_require_bind fun _ => keeps_ite _
    (keeps_ite _ (drainKept_raise _ _) (keeps_update fun _ => ⟨rfl, rfl, rfl, rfl⟩))
    (keeps_update fun _ => ⟨rfl, rfl, rfl, rfl⟩)

theorem drainKept_analyseFrame (n : U16) : Keeps DrainKept (analyseFrame n) :=
  drainKept_bind drainKept_deinterleave fun _ => drainKept_bind drainKept_parseMeta fun _ =>
    drainKept_bind drainKept_frameAverages fun _ => drainKept_bind drainKept_gainNormalise fun _ =>
      drainKept_bind drainKept_window fun _ => drainKept_bind (drainKept_fft n) fun _ =>
        drainKept_bind (drainKept_magnitude n) fun _ => drainKept_bind drainKept_adaptiveThreshold fun _ =>
          drainKept_bind (keeps_update fun _ => ⟨rfl, rfl, rfl, rfl⟩) fun _ => drainKept_decideFrequency

/-! ### The cycle -/

/-- The end of a cycle that was ready: FIFOCLR, then the ring is emptied. -/
def cycleEnd (done : Bool) : Proc Bool := do
  fifoClear
  update emptyRing
  pure done

theorem flickerCycle_of_drainRaises (h : Raises drain (clearSaturation s) status info t) :
    Raises flickerCycle s status info t := by
  obtain ⟨e, he, hcode, hinfo⟩ := h
  exact ⟨e, bind_of_error he _, hcode, hinfo⟩

theorem flickerCycle_of_notReady (h : drain (clearSaturation s) = .ok false t) : flickerCycle s = .ok false t :=
  bind_of_ok h _

theorem flickerCycle_of_tooLarge (h : drain (clearSaturation s) = .ok true t)
    (hn : t.cfg.flk.fftMax < t.flk.sampleCount.toNat) : flickerCycle s = cycleEnd false t := by
  have hskip : decide (t.flk.sampleCount.toNat ≤ t.cfg.flk.fftMax) = false := decide_eq_false (Nat.not_le.mpr hn)
  refine (bind_of_ok h _).trans ?_
  simp only [if_true, bind_look, hskip, onlyIf_false, bind_pure_run]
  rfl

theorem flickerCycle_of_fits (h : drain (clearSaturation s) = .ok true t)
    (hn : t.flk.sampleCount.toNat ≤ t.cfg.flk.fftMax) :
    flickerCycle s = (analyseFrame t.flk.sampleCount >>= fun _ => cycleEnd true) t := by
  refine (bind_of_ok h _).trans ?_
  simp only [if_true, bind_look, decide_eq_true hn, onlyIf_true]
  rfl

theorem exec_flkest_of_ok (h : flickerCycle s = .ok done t) :
    exec .flkest s = .next (completed { t with x := t.x.set 0 (flagWord done) }) :=
  complete_result h flagWord

theorem exec_flkest_of_raises (h : Raises flickerCycle s status info t) :
    exec .flkest s = .next (faulted status info t) := by
  obtain ⟨⟨code, i⟩, he, rfl, rfl⟩ := h
  exact complete_fault (bind_of_error he _)

/-- The end of the cycle in the statement's terms: a FIFOCLR that returns, and one that raises. -/
theorem exec_flkest_of_cycleEnd (h : flickerCycle s = cycleEnd done u) :
    (∀ result v, callReturns .fifoclr u result v → exec .flkest s = .next (completed { v with
      x := v.x.set 0 (flagWord done), flk := { v.flk with dataReady := false }, buf := { v.buf with ringLen := 0 } })) ∧
    (∀ status info v, callRaises .fifoclr u status info v → exec .flkest s = .next (faulted status info v)) := by
  refine ⟨fun result v hv => ?_, fun status info v hv => ?_⟩
  · obtain ⟨_, hclear, -⟩ := (callReturns_iff isProcedure_fifoclr).mp hv
    exact exec_flkest_of_ok (h.trans (bind_of_ok hclear _))
  · obtain ⟨e, hclear, hcode, hinfo⟩ := (callRaises_iff isProcedure_fifoclr).mp hv
    exact exec_flkest_of_raises ⟨e, h.trans (bind_of_error hclear _), hcode, hinfo⟩

/-- A step of the analysis that raises ends the cycle there, with what the drain left as it was. -/
theorem flkest_of_analysisRaises (hdrain : drain (clearSaturation s) = .ok true t)
    (hn : t.flk.sampleCount.toNat ≤ t.cfg.flk.fftMax) (h : Raises (analyseFrame t.flk.sampleCount) t status info u) :
    exec .flkest s = .next (faulted status info u) ∧ u.x = s.x ∧ DrainKept t u := by
  obtain ⟨e, he, hcode, hinfo⟩ := h
  have hcycle := (flickerCycle_of_fits hdrain hn).trans (bind_of_error he _)
  have hquiet := isProcedure_flkest.1 s
  have hkept := drainKept_analyseFrame t.flk.sampleCount t
  rw [hcycle] at hquiet
  rw [he] at hkept
  exact ⟨exec_flkest_of_raises ⟨e, hcycle, hcode, hinfo⟩, hquiet.x, hkept⟩

end

/-! ### An empty FIFO of the reference device (20_memory.md R78) -/

section
variable {c : Config} {d : SimDev} {b : Bus}

/-- Whichever of the three FIFO registers answers at the address, an empty FIFO reads 0 and stays empty. -/
theorem simReadOk_of_emptyFifo (hovf : d.ovf = false) (hfifo : d.fifo = []) {addr : Byte}
    (h : addr = regAddr c c.reg.fifoLvl.toNat ∨ addr = regAddr c c.reg.fifoStat.toNat) :
    simReadOk c d addr 1 = ([0], d) := by
  obtain ⟨reg, fifo, ovf, outcomes⟩ := d
  subst hovf hfifo
  unfold simReadOk
  split
  case isTrue => rfl
  case isFalse =>
    split
    case isTrue => simp
    case isFalse hlvl =>
      rw [if_pos ⟨h.resolve_left fun ha => hlvl ⟨ha, rfl⟩, rfl⟩]
      simp

theorem readOk_of_emptyFifo (hb : simAnswers b d) (hovf : d.ovf = false) (hfifo : d.fifo = []) {reg : Byte}
    (h : reg = c.reg.fifoLvl ∨ reg = c.reg.fifoStat) : ∃ b', readOk c b reg 1 [0] b' ∧ simAnswers b' d := by
  have hread := busRead_of_simAnswers (c := c) hb (regAddr c reg.toNat) 1
  rw [simReadOk_of_emptyFifo hovf hfifo (h.imp (fun h => by rw [h]) fun h => by rw [h])] at hread
  exact ⟨_, hread, rfl, hb.2⟩

/-- DRAIN of an empty FIFO, with less than a frame buffered. -/
theorem drain_of_emptyFifo {s : State} (hc : configOk s.cfg = true) (hb : simAnswers s.bus d) (hovf : d.ovf = false)
    (hfifo : d.fifo = []) (hlen : s.buf.ringLen.toNat < frameBytes s.flk) : ∃ dc bus, bus.dev = .sim d ∧
      drain s = .ok false { s with dc := dc, bus := bus, flk := { s.flk with dataReady := false } } := by
  obtain ⟨b1, hread1, hb1⟩ := readOk_of_emptyFifo hb hovf hfifo (.inl rfl)
  obtain ⟨b2, hread2, hb2⟩ := readOk_of_emptyFifo hb1 hovf hfifo (.inr rfl)
  have hnone : pendingBytes s.cfg 0 0 = 0 := by simp [pendingBytes]
  obtain ⟨hfits, -, -⟩ := drain_of_noOverflow (polls_of_reads hc hread1 hread2) BitVec.zero_and hnone
  have hdrain := hfits _ (drainChunks_of_none 0 _)
  rw [markReady_flk_dataReady, markReady, decide_eq_false (Nat.not_le.mpr hlen)] at hdrain
  exact ⟨_, b2, hb2.1, hdrain⟩

end

/-- Settles O47: the calls of the statement are the procedures of the cycle, and the analysis keeps what the drain
left; with an empty FIFO the drain finds less than a frame. (`flickerCycle` is the procedure.) -/
theorem flickerCycle_holds : Obligations.FlickerCycle := by
  refine ⟨fun s => ?calls, fun s d hs hb hovf hfifo hlen => ?empty⟩
  case calls =>
    intro start
    refine ⟨fun status info t h => ?drainRaises, fun t h => ?notReady, fun t h => ?ready⟩
    case drainRaises =>
      exact exec_flkest_of_raises (flickerCycle_of_drainRaises ((callRaises_iff isProcedure_drain).mp h))
    case notReady => exact exec_flkest_of_ok (flickerCycle_of_notReady ((callReturns_drain_iff false).mp h))
    case ready =>
      intro n ends
      have hdrain : drain (clearSaturation s) = .ok true t := (callReturns_drain_iff true).mp h
      refine ⟨fun hn => ?tooLarge, fun hn => ⟨fun u hu => ?analysed, fun status info u hu => ?analysisRaises⟩⟩
      case tooLarge => exact exec_flkest_of_cycleEnd (flickerCycle_of_tooLarge hdrain hn)
      case analysed =>
        have hanalysis := (analysis_returns n).mp hu
        exact exec_flkest_of_cycleEnd ((flickerCycle_of_fits hdrain hn).trans (bind_of_ok hanalysis _))
      case analysisRaises =>
        obtain ⟨hexec, hx, hbus, hready, hring, hringLen⟩ :=
          flkest_of_analysisRaises hdrain hn ((analysis_raises n).mp hu)
        exact ⟨hexec, hx, hbus, hready.trans (drain_dataReady hdrain), hring, hringLen⟩
  case empty =>
    obtain ⟨dc, bus, hdev, hdrain⟩ := drain_of_emptyFifo (s := clearSaturation s) hs.cfg hb hovf hfifo hlen
    exact ⟨dc, bus, hdev, exec_flkest_of_ok (flickerCycle_of_notReady hdrain)⟩

end Sys2Proof.Machine
end

section
/-! Gain manager (44_agc.md R185 to R191): the two conversions of gain codes, and the settings recorded after the
setFields that carry them. -/

namespace Sys2Proof.Machine

/-! ### L2C and C2L (R185, R186) -/

/-- `code` is the largest of the codes up to `bound` whose gain does not exceed `g`. -/
structure LargestCode (g bound code : Nat) : Prop where
  le_bound : code ≤ bound
  gain_le : gainTab code ≤ g
  largest : ∀ c ≤ bound, gainTab c ≤ g → c ≤ code

theorem codeBelow_largestCode {g : Nat} (h : gainTab 0 ≤ g) (bound : Nat) :
    LargestCode g bound (codeBelow g bound) := by
  induction bound with
  | zero => exact ⟨le_rfl, h, fun _ hc _ => hc⟩
  | succ bound ih =>
    rw [codeBelow]
    split
    case isTrue hfit => exact ⟨le_rfl, hfit, fun _ hc _ => hc⟩
    case isFalse hlarge =>
      refine ⟨ih.le_bound.trans (Nat.le_succ _), ih.gain_le, fun c hc hgain => ih.largest c ?_ hgain⟩
      have hne : c ≠ bound + 1 := fun h => hlarge (h ▸ hgain)
      omega

theorem linearToCode_largestCode {g : Nat} (h : gainTab 0 ≤ g) : LargestCode g maxGainCode (linearToCode g) :=
  codeBelow_largestCode h maxGainCode

theorem gainTab_succ (c : Nat) : gainTab (c + 1) = 2 * gainTab c := by
  simp only [gainTab, Nat.pow_succ]
  omega

theorem gainTab_le_gainTab {c d : Nat} (h : c ≤ d) : gainTab c ≤ gainTab d :=
  Nat.mul_le_mul_left 1000 (Nat.pow_le_pow_right Nat.two_pos h)

section
variable {g bound code : Nat}

/-- Below the gain one code past the bound, the largest code's gain is more than half of `g`. -/
theorem LargestCode.lt_two_mul (h : LargestCode g bound code) (hg : g < gainTab (bound + 1)) :
    g < 2 * gainTab code := by
  rw [← gainTab_succ]
  rcases h.le_bound.eq_or_lt with rfl | hlt
  · exact hg
  · exact Nat.lt_of_not_le fun hnext => Nat.not_succ_le_self _ (h.largest _ hlt hnext)

/-- The largest code for a tabulated gain has that gain. -/
theorem LargestCode.gain_eq (h : LargestCode g bound code) {c : Nat} (hc : c ≤ bound) (hg : g = gainTab c) :
    gainTab code = g :=
  le_antisymm h.gain_le (hg ▸ gainTab_le_gainTab (h.largest c hc hg.ge))

end

/-- Both conversions: the check on `x[1]`, then a value computed from it. -/
def convertGain (inTable : Nat → Bool) (f : Nat → Nat) : Proc Unit := do
  let v ← look (getX · 1)
  require (inTable v.toNat) (v.setWidth 16)
  update (setX 0 (BitVec.ofNat 64 (f v.toNat)))

theorem exec_l2c (s : State) :
    exec .l2c s = complete (convertGain (fun g => decide (gainTab 0 ≤ g)) linearToCode) s := rfl

theorem exec_c2l (s : State) :
    exec .c2l s = complete (convertGain (fun c => decide (c ≤ maxGainCode)) gainTab) s := rfl

section
variable {s : State}

theorem complete_convertGain_of_bad {inTable : Nat → Bool} (h : inTable (s.x[1]).toNat = false) (f : Nat → Nat) :
    complete (convertGain inTable f) s = .next (faulted 3 (BitVec.ofNat 16 (s.x[1]).toNat) s) := by
  rw [← getX_one] at h ⊢
  rw [← setWidth_eq_ofNat]
  exact complete_refused (bind_of_error (require_bad h _ _) _)

theorem complete_convertGain_of_ok {inTable : Nat → Bool} (h : inTable (s.x[1]).toNat = true) (f : Nat → Nat) :
    complete (convertGain inTable f) s =
      .next (completed { s with x := s.x.set 0 (BitVec.ofNat 64 (f (s.x[1]).toNat)) }) := by
  rw [← getX_one] at h ⊢
  rw [← setX_zero]
  exact complete_ok (bind_of_ok (require_ok h _ _) _)

theorem exec_l2c_of_small (h : (s.x[1]).toNat < gainTab 0) :
    exec .l2c s = .next (faulted 3 (BitVec.ofNat 16 (s.x[1]).toNat) s) :=
  (exec_l2c s).trans (complete_convertGain_of_bad (decide_eq_false (Nat.not_le.mpr h)) _)

theorem exec_l2c_of_gain (h : gainTab 0 ≤ (s.x[1]).toNat) :
    exec .l2c s = .next (completed { s with x := s.x.set 0 (BitVec.ofNat 64 (linearToCode (s.x[1]).toNat)) }) :=
  (exec_l2c s).trans (complete_convertGain_of_ok (decide_eq_true h) _)

theorem exec_c2l_of_large (h : maxGainCode < (s.x[1]).toNat) :
    exec .c2l s = .next (faulted 3 (BitVec.ofNat 16 (s.x[1]).toNat) s) :=
  (exec_c2l s).trans (complete_convertGain_of_bad (decide_eq_false (Nat.not_le.mpr h)) _)

theorem exec_c2l_of_code (h : (s.x[1]).toNat ≤ maxGainCode) :
    exec .c2l s = .next (completed { s with x := s.x.set 0 (BitVec.ofNat 64 (gainTab (s.x[1]).toNat)) }) :=
  (exec_c2l s).trans (complete_convertGain_of_ok (decide_eq_true h) _)

/-- C2L of a code, what it leaves in `x[0]` as a number: every tabulated gain fits. -/
theorem exec_c2l_value {code : Nat} (hx : (s.x[1]).toNat = code) (h : code ≤ maxGainCode) :
    ∃ t, exec .c2l s = .next t ∧ t.dc.lastErr = 0 ∧ (t.x[0]).toNat = gainTab code := by
  subst hx
  refine ⟨_, exec_c2l_of_code h, rfl, ?_⟩
  have hlt : gainTab (s.x[1]).toNat < 2 ^ 64 := (gainTab_le_gainTab h).trans_lt (by decide)
  simp only [completed_x, Vector.getElem_set_self, BitVec.toNat_ofNat, Nat.mod_eq_of_lt hlt]

/-- XMOV 1, 0 moves the result an operation has just put in `x[0]`. -/
theorem exec_xmov_of_result (s : State) (r : U64) :
    ∃ t, exec (.xmov 1 0) (completed { s with x := s.x.set 0 r }) = .next t ∧ t.x[1] = r :=
  ⟨_, exec_xmov_one_zero _, by simp⟩

/-- The gain of the code L2C finds, got by L2C, XMOV 1, 0, C2L. -/
theorem c2l_xmov_l2c (h : gainTab 0 ≤ (s.x[1]).toNat) :
    ∃ t u v, exec .l2c s = .next t ∧ exec (.xmov 1 0) t = .next u ∧ exec .c2l u = .next v ∧ v.dc.lastErr = 0 ∧
      (v.x[0]).toNat = gainTab (linearToCode (s.x[1]).toNat) := by
  obtain ⟨u, hmove, hx⟩ := exec_xmov_of_result s (BitVec.ofNat 64 (linearToCode (s.x[1]).toNat))
  have hcode := (linearToCode_largestCode h).le_bound
  have hmoved : (u.x[1]).toNat = linearToCode (s.x[1]).toNat := by
    rw [hx, BitVec.toNat_ofNat, Nat.mod_eq_of_lt (hcode.trans_lt (by decide))]
  obtain ⟨v, hback, hdone, hvalue⟩ := exec_c2l_value hmoved hcode
  exact ⟨_, u, v, exec_l2c_of_gain h, hmove, hback, hdone, hvalue⟩

end

/-- Settles O48: the search down from the largest code finds the largest that fits; the round trip gives its gain. -/
theorem gainCodeConversions : Obligations.GainCodeConversions := by
  refine ⟨fun s => ⟨exec_l2c_of_small, fun h => ?largest, exec_c2l_of_large, exec_c2l_of_code⟩,
    fun s h hlt => ?roundTrip⟩
  case largest =>
    have hcode := linearToCode_largestCode h
    exact ⟨_, hcode.le_bound, hcode.gain_le, hcode.largest, exec_l2c_of_gain h⟩
  case roundTrip =>
    have hcode := linearToCode_largestCode h
    obtain ⟨t, u, v, hfirst, hmove, hback, hdone, hvalue⟩ := c2l_xmov_l2c h
    refine ⟨t, u, v, hfirst, hmove, hback, hdone, ?_, ?_, fun c hc hg => BitVec.eq_of_toNat_eq ?_⟩ <;> rw [hvalue]
    · exact hcode.gain_le
    · exact hcode.lt_two_mul hlt
    · exact hcode.gain_eq hc hg

/-! ### A setting recorded after its setFields -/

section
variable {i : Instr} {s : State} {store : State → State}

/-- The two ways an operation ends that does one setField and then records a setting. -/
theorem setting_of_field {w : FieldWrite} (hw : fieldWriteOk s.cfg w = true)
    (hrun : exec i s = complete (setField w.reg w.val w.mask >>= fun _ => update store) s) :
    (∀ bus dc wrote, fieldDone s.cfg w s.bus s.dc bus dc wrote →
      exec i s = .next (completed (store { s with dc := dc, bus := bus }))) ∧
    (∀ bus dc, fieldFails s.cfg w s.bus s.dc bus dc →
      exec i s = .next (faulted 1 (w.reg.setWidth 16) { s with dc := dc, bus := bus })) := by
  rw [hrun]
  exact ⟨fun _ _ _ h => complete_ok (bind_of_ok (setField_done hw h) _),
    fun _ _ h => complete_transport (bind_of_error (setField_fails hw h) _)⟩

/-- The two ways an operation ends that does a list of setFields and then records a setting. -/
theorem setting_of_fields {ws : List FieldWrite} (hw : ∀ w ∈ ws, fieldWriteOk s.cfg w = true)
    (hrun : exec i s = complete (setFields ws >>= fun _ => update store) s) :
    (∀ bus dc, burstDone s.cfg ws s.bus s.dc bus dc →
      exec i s = .next (completed (store { s with dc := dc, bus := bus }))) ∧
    (∀ reg bus dc, burstFails s.cfg ws s.bus s.dc reg bus dc →
      exec i s = .next (faulted 1 (reg.setWidth 16) { s with dc := dc, bus := bus })) := by
  rw [hrun]
  exact ⟨fun _ _ h => complete_ok (bind_of_ok (setFields_done hw h) _),
    fun _ _ _ h => complete_transport (bind_of_error (setFields_fails hw h) _)⟩

end

/-- A list of two setFields is one after the other. -/
theorem setFields_pair (a b : FieldWrite) {α : Type} (k : Unit → Proc α) :
    (setFields [a, b] >>= k) =
      (setField a.reg a.val a.mask >>= fun _ => setField b.reg b.val b.mask >>= fun _ => k ()) := by
  simp only [setFields, bind_assoc, pure_bind]

/-! ### AGCEN, AGCSAT and AGCPRED (R187 to R189) -/

theorem onOff_and_not (on : Bool) (mask : Byte) : onOff on mask &&& ~~~mask = 0 := by
  cases on with
  | false => exact BitVec.zero_and
  | true => exact BitVec.and_not_self _

/-- The setField of an on/off setting whose operand is `on`. -/
def onOffField (reg mask on : Byte) : FieldWrite := ⟨reg, onOff (decide (on = 1)) mask, mask⟩

theorem onOffField_eq (reg mask on : Byte) : onOffField reg mask on = ⟨reg, if on = 1 then mask else 0, mask⟩ := by
  simp only [onOffField, onOff, decide_eq_true_eq]

/-- An on/off setting is a legal setField of any register the configuration has. -/
theorem onOffField_ok {c : Config} (hc : configOk c = true) {reg : Byte} (hreg : reg ∈ symbolicIds c.reg)
    (mask on : Byte) : fieldWriteOk c (onOffField reg mask on) = true :=
  fieldWriteOk_iff.mpr ⟨symbolicId_lt hc hreg, onOff_and_not _ mask⟩

section
variable {s : State} {on : Byte}

theorem exec_agcen_of_flag (h : on.toNat ≤ 1) :
    exec (.agcen on) s = complete (setFields [onOffField s.cfg.reg.agcA s.cfg.mask.agcA on,
      onOffField s.cfg.reg.agcB s.cfg.mask.agcB on] >>= fun _ => update fun t =>
        { t with agc := { t.agc with enabled := decide (on = 1) } }) s := by
  rw [setFields_pair]
  exact complete_congr (bind_of_ok (flagOperand_ok h) _)

/-- AGCSAT and AGCPRED: the flag, the setField of the mode register, the setting. -/
def modeSetting (mask : FieldMasks → Byte) (store : Bool → State → State) (on : Byte) : Proc Unit := do
  let b ← flagOperand on
  let c ← look (·.cfg)
  let _ ← setField c.reg.agcMode (onOff b (mask c.mask)) (mask c.mask)
  update (store b)

variable (mask : FieldMasks → Byte) (store : Bool → State → State)

theorem complete_modeSetting_of_bad (h : 1 < on.toNat) :
    complete (modeSetting mask store on) s = .next (faulted 3 (on.setWidth 16) s) :=
  complete_refused (bind_of_error (flagOperand_bad h) _)

theorem complete_modeSetting_of_flag (h : on.toNat ≤ 1) {w : FieldWrite}
    (hw : w = onOffField s.cfg.reg.agcMode (mask s.cfg.mask) on) :
    complete (modeSetting mask store on) s =
      complete (setField w.reg w.val w.mask >>= fun _ => update (store (decide (on = 1)))) s := by
  subst hw
  exact complete_congr (bind_of_ok (flagOperand_ok h) _)

end

/-- `AGC.satAdaptive <- b` (R188). -/
def storeSatAdaptive (b : Bool) (s : State) : State := { s with agc := { s.agc with satAdaptive := b } }

/-- `AGC.predictive <- b` (R189). -/
def storePredictive (b : Bool) (s : State) : State := { s with agc := { s.agc with predictive := b } }

theorem exec_agcsat (on : Byte) (s : State) :
    exec (.agcsat on) s = complete (modeSetting (·.agcSat) storeSatAdaptive on) s := rfl

theorem exec_agcpred (on : Byte) (s : State) :
    exec (.agcpred on) s = complete (modeSetting (·.agcPred) storePredictive on) s := rfl

/-- Settles O49: AGCEN does the two setFields as one list, which keeps what was done before a failure. -/
theorem agcEnableWritesTwoRegisters : Obligations.AgcEnableWritesTwoRegisters := by
  intro s on hc
  refine ⟨fun h => complete_refused (bind_of_error (flagOperand_bad h) _), fun h => ?_⟩
  rw [← onOffField_eq, ← onOffField_eq]
  refine setting_of_fields (fun w hw => ?_) (exec_agcen_of_flag h)
  rcases List.mem_pair.mp hw with rfl | rfl
  · exact onOffField_ok hc (by simp [symbolicIds]) _ _
  · exact onOffField_ok hc (by simp [symbolicIds]) _ _

/-- Settles O50: both modes are one procedure, with a mask and a setting each. -/
theorem agcModesAreIndependent : Obligations.AgcModesAreIndependent := by
  intro s on hc c w
  have hmode : c.reg.agcMode ∈ symbolicIds c.reg := by simp [symbolicIds]
  have hw (mask : Byte) : w mask = onOffField c.reg.agcMode mask on := (onOffField_eq _ _ _).symm
  have hok (mask : Byte) : fieldWriteOk c (w mask) = true := hw mask ▸ onOffField_ok hc hmode mask on
  refine ⟨fun h => ⟨complete_modeSetting_of_bad _ storeSatAdaptive h,
    complete_modeSetting_of_bad _ storePredictive h⟩, fun h => ?_⟩
  obtain ⟨hsat, hsatFails⟩ := setting_of_field (hok c.mask.agcSat)
    ((exec_agcsat on s).trans (complete_modeSetting_of_flag _ _ h (hw _)))
  obtain ⟨hpred, hpredFails⟩ := setting_of_field (hok c.mask.agcPred)
    ((exec_agcpred on s).trans (complete_modeSetting_of_flag _ _ h (hw _)))
  exact ⟨hsat, hsatFails, hpred, hpredFails⟩

/-! ### AGCWIN and AGCMAXG (R190, R191) -/

/-- The setField of AGCMAXG. -/
def maxgField (c : Config) (wide : Bool) (code : Byte) : FieldWrite :=
  ⟨c.reg.agcMaxg, BitVec.ofNat 8 (code.toNat <<< maxgShift c wide), maxgMask c wide⟩

/-- The code, shifted into place, fits the field of its channel. -/
def CodeFits (c : Config) (wide : Bool) (code : Byte) : Prop :=
  code.toNat <<< maxgShift c wide < 256 ∧ (maxgField c wide code).val &&& ~~~maxgMask c wide = 0

section
variable {s : State}

theorem exec_agcwin_of_bad {size : Byte} (h : size &&& ~~~s.cfg.mask.agcWin ≠ 0) :
    exec (.agcwin size) s = .next (faulted 3 (size.setWidth 16) s) :=
  complete_refused (bind_of_error (require_bad (beq_eq_false_iff_ne.mpr h) _ _) _)

theorem exec_agcwin_of_fits {size : Byte} (h : size &&& ~~~s.cfg.mask.agcWin = 0) :
    exec (.agcwin size) s = complete (setField s.cfg.reg.agcWin size s.cfg.mask.agcWin >>= fun _ =>
      update fun t => { t with agc := { t.agc with winSize := size } }) s :=
  complete_congr (bind_of_ok (require_ok (beq_iff_eq.mpr h) _ _) _)

variable {ch code : Byte}

theorem exec_agcmaxg_of_badChannel (h : 1 < ch.toNat) :
    exec (.agcmaxg ch code) s = .next (faulted 3 (ch.setWidth 16) s) :=
  complete_refused (bind_of_error (flagOperand_bad h) _)

theorem exec_agcmaxg_of_badCode (hch : ch.toNat ≤ 1) (h : maxGainCode < code.toNat) :
    exec (.agcmaxg ch code) s = .next (faulted 3 (code.setWidth 16) s) :=
  complete_refused ((bind_of_ok (flagOperand_ok hch) _).trans
    (bind_of_error (require_bad (decide_eq_false (Nat.not_le.mpr h)) _ _) _))

theorem exec_agcmaxg_of_misfit (hch : ch.toNat ≤ 1) (hcode : code.toNat ≤ maxGainCode)
    (h : ¬ CodeFits s.cfg (decide (ch = 1)) code) :
    exec (.agcmaxg ch code) s = .next (faulted 3 (code.setWidth 16) s) :=
  complete_refused ((bind_of_ok (flagOperand_ok hch) _).trans
    ((bind_of_ok (require_ok (decide_eq_true hcode) _ _) _).trans
      (bind_of_error (require_bad (by simpa [CodeFits, maxgField] using h) _ _) _)))

theorem exec_agcmaxg_of_fits (hch : ch.toNat ≤ 1) (hcode : code.toNat ≤ maxGainCode)
    (h : CodeFits s.cfg (decide (ch = 1)) code) {w : FieldWrite} (hw : w = maxgField s.cfg (decide (ch = 1)) code) :
    exec (.agcmaxg ch code) s = complete (setField w.reg w.val w.mask >>= fun _ =>
      update (storeMaxGain (decide (ch = 1)) (code.setWidth 4))) s := by
  subst hw
  exact complete_congr ((bind_of_ok (flagOperand_ok hch) _).trans
    ((bind_of_ok (require_ok (decide_eq_true hcode) _ _) _).trans
      (bind_of_ok (require_ok (by simpa [CodeFits, maxgField] using h) _ _) _)))

end

/-- A ceiling is recorded for its channel alone. -/
theorem storeMaxGain_eq (ch code : Byte) (s : State) :
    storeMaxGain (decide (ch = 1)) (code.setWidth 4) s = { s with agc := { s.agc with
      maxGainC := if ch = 1 then s.agc.maxGainC else BitVec.ofNat 4 code.toNat
      maxGainW := if ch = 1 then BitVec.ofNat 4 code.toNat else s.agc.maxGainW } } := by
  rw [setWidth_eq_ofNat]
  by_cases h : ch = 1
  · simp only [storeMaxGain, h, decide_true, if_true]
  · simp only [storeMaxGain, h, decide_false, if_false, Bool.false_eq_true]

/-- Settles O51: the refusals in their order, then one setField and the setting. -/
theorem agcFields : Obligations.AgcFields := by
  refine ⟨fun s size hc => ⟨exec_agcwin_of_bad, fun h => ?window⟩, fun s ch code hc => ?ceiling⟩
  case window =>
    have hw : fieldWriteOk s.cfg ⟨s.cfg.reg.agcWin, size, s.cfg.mask.agcWin⟩ = true :=
      fieldWriteOk_iff.mpr ⟨symbolicId_lt hc (by simp [symbolicIds]), h⟩
    exact setting_of_field hw (exec_agcwin_of_fits h)
  case ceiling =>
    intro c mask val w fits
    have hmask : maxgMask c (decide (ch = 1)) = mask := by simp only [maxgMask, decide_eq_true_eq, mask]
    have hval : code.toNat <<< maxgShift c (decide (ch = 1)) = val := by
      simp only [maxgShift, decide_eq_true_eq, Nat.shiftLeft_eq, val]
    have hw : w = maxgField c (decide (ch = 1)) code := by simp only [maxgField, hmask, hval, w]
    have hfits : CodeFits c (decide (ch = 1)) code ↔ fits := by
      simp only [CodeFits, maxgField, hmask, hval, fits]
    refine ⟨exec_agcmaxg_of_badChannel, fun hch hbad => ?refused, fun hch hcode h => ?done⟩
    case refused =>
      rcases Nat.lt_or_ge maxGainCode code.toNat with hlarge | hcode
      · exact exec_agcmaxg_of_badCode hch hlarge
      · exact exec_agcmaxg_of_misfit hch hcode (hfits.not.mpr (hbad.resolve_left (Nat.not_lt.mpr hcode)))
    case done =>
      have hreg : c.reg.agcMaxg ∈ symbolicIds c.reg := by simp [symbolicIds]
      have hok : fieldWriteOk c w = true := fieldWriteOk_iff.mpr ⟨symbolicId_lt hc hreg, h.2⟩
      have hend := setting_of_field hok (exec_agcmaxg_of_fits hch hcode (hfits.mpr h) hw)
      simp only [storeMaxGain_eq] at hend
      exact hend

end Sys2Proof.Machine
end

section
/-! ALS (45_als.md R201 to R204): the formulas of the statements are those of the pipeline, and the lux of counts
below 2^32 fits an i64, so that every sample whose counts were read is published. -/

namespace Sys2Proof.Machine

/-! ### The formulas of a sample (R203 (2) to (4)) -/

/-- The scaled 1.6 and 2.0 of a well-formed configuration are 8/5 and 10/5 (00_scope.md R7 (g)). -/
theorem configOk_irScale {c : Config} (h : configOk c = true) :
    ∃ k, 0 < k ∧ c.als.irDen = k * 5 ∧ c.als.irWNum = k * 8 ∧ c.als.irCNum = k * 10 := by
  simp only [configOk, Bool.and_eq_true, alsOk, beq_iff_eq, decide_eq_true_eq] at h
  obtain ⟨⟨-, ⟨⟨⟨hden, hwide⟩, hclear⟩, -⟩, -⟩, -⟩ := h
  exact ⟨c.als.irDen / 5, by omega, by omega, by omega, by omega⟩

/-- Numerator and denominator scaled alike: the quotient of the positive part stays. -/
theorem toNat_mul_div_mul {k : Nat} (hk : 0 < k) (d : Int) (n : Nat) : (k * d).toNat / (k * n) = d.toNat / n := by
  rcases le_total 0 d with hd | hd
  · rw [Int.toNat_mul (Int.natCast_nonneg k) hd, Int.toNat_natCast, Nat.mul_div_mul_left _ _ hk]
  · rw [Int.toNat_of_nonpos hd, Int.toNat_of_nonpos (mul_nonpos_of_nonneg_of_nonpos (Int.natCast_nonneg k) hd),
      Nat.zero_div, Nat.zero_div]

theorem irOf_eq_irEstimate {c : Config} (h : configOk c = true) (satf : Bool) (clear wide : Nat) :
    irOf c satf clear wide = irEstimate satf clear wide := by
  obtain ⟨k, hk, hden, hwide, hclear⟩ := configOk_irScale h
  have hscaled : ((c.als.irWNum * wide : Nat) : Int) - ((c.als.irCNum * clear : Nat) : Int) =
      k * (8 * (wide : Int) - 10 * clear) := by
    rw [hwide, hclear]; push_cast; ring
  have hquotient : (8 * (wide : Int) - 10 * clear).toNat / 5 = ((8 * (wide : Int) - 10 * clear) / 5).toNat := by
    omega
  simp only [irOf, irEstimate, hscaled, hden, toNat_mul_div_mul hk, hquotient, Bool.or_eq_true, decide_eq_true_eq]

theorem luxOf_eq_luxEstimate (a b : Int) (clear wide : Nat) : luxOf a b clear wide = luxEstimate a b clear wide :=
  asr_eq _ _

/-! ### No lux overflows (R203) -/

/-- A ratio of 0 is a count below the other, nonzero one. -/
theorem lt_of_cwRatioOf_eq_zero {clear wide : Nat} (h : cwRatioOf clear wide = 0) : clear < wide := by
  unfold cwRatioOf cwRatioMax at h
  split at h
  · omega
  · have hquotient : clear / wide = 0 := by omega
    exact (Nat.div_eq_zero_iff.mp hquotient).resolve_left ‹_›

/-- Scaling by a proper fraction, truncated, makes nothing larger. -/
theorem natAbs_tdiv_mul_le (a : Int) {clear wide : Nat} (h : clear < wide) :
    (tdiv (a * clear) wide).natAbs ≤ a.natAbs := by
  unfold tdiv
  rw [Int.natAbs_tdiv, Int.natAbs_mul, Int.natAbs_natCast, Int.natAbs_natCast]
  exact Nat.div_le_of_le_mul (by rw [Nat.mul_comm]; exact Nat.mul_le_mul_right _ h.le)

/-- The second factor of the lux is small: |A| is taken at most 15 times, and |B| once. -/
theorem natAbs_luxFactor_le {a b : Int} (ha : a.natAbs ≤ 2 ^ 31) (hb : b.natAbs ≤ 2 ^ 31) (clear wide : Nat) :
    (luxFactor a b clear wide).natAbs ≤ 2 ^ 35 := by
  unfold luxFactor
  split
  case isTrue h =>
    have hterm := natAbs_tdiv_mul_le a (lt_of_cwRatioOf_eq_zero h)
    omega
  case isFalse =>
    have hterm : (a * cwRatioOf clear wide).natAbs ≤ 2 ^ 31 * 15 := by
      rw [Int.natAbs_mul, Int.natAbs_natCast]
      exact Nat.mul_le_mul ha (cwRatioOf_le clear wide)
    omega

theorem natAbs_toInt_le (v : U32) : v.toInt.natAbs ≤ 2 ^ 31 := by
  have hlo := v.le_toInt
  have hhi := v.toInt_lt
  omega

/-- The lux of a 32-bit count fits an i64. -/
theorem luxEstimate_fits (coefA coefB : U32) {clear : Nat} (hclear : clear < 2 ^ 32) (wide : Nat) :
    fitsI64 (luxEstimate coefA.toInt coefB.toInt clear wide) = true := by
  rw [← luxOf_eq_luxEstimate, luxOf, asr_eq, fitsI64_iff, luxShift]
  have hfactor := natAbs_luxFactor_le (natAbs_toInt_le coefA) (natAbs_toInt_le coefB) clear wide
  have hproduct : (clear * luxFactor coefA.toInt coefB.toInt clear wide).natAbs ≤ 2 ^ 32 * 2 ^ 35 := by
    rw [Int.natAbs_mul, Int.natAbs_natCast]
    exact Nat.mul_le_mul hclear.le hfactor
  omega

/-- The reference rolling average of a lux that fits (00_scope.md R6). -/
theorem luxAverageOf_halfSum {c : Config} (h : c.als.luxAverage = .halfSum) (avg : U64) {lux : Int}
    (hlux : fitsI64 lux = true) :
    luxAverageOf c avg (BitVec.ofInt 64 lux) = BitVec.ofInt 64 ((avg.toInt + lux) / 2) := by
  have hshift : luxAverageOf c avg (BitVec.ofInt 64 lux) = BitVec.ofInt 64 (asr (avg.toInt + lux) 1) := by
    simp only [luxAverageOf, h, ofInt_toInt_of_fits hlux]
    generalize avg.toInt + lux = sum
    cases sum <;> rfl
  rw [hshift, asr_eq, pow_one]

/-! ### Publishing a sample (R203 (5)) -/

section
variable {s : State}

theorem publishSample_eq_published (hcfg : configOk s.cfg = true) (clear wide : Nat) :
    publishSample clear wide (BitVec.ofInt 64 (luxEstimate s.als.coefA.toInt s.als.coefB.toInt clear wide)) s =
      published clear wide s := by
  simp only [publishSample, irOf_eq_irEstimate hcfg]
  rfl

/-- The sample of a 32-bit count is published: its lux fits. -/
theorem alsCompute_ok (hcfg : configOk s.cfg = true) {clear : Nat} (hclear : clear < 2 ^ 32) (wide : Nat) :
    alsCompute clear wide s = .ok () (published clear wide s) := by
  have hfits := luxEstimate_fits s.als.coefA s.als.coefB hclear wide
  rw [alsCompute, bind_look, luxOf_eq_luxEstimate]
  simp only [hfits, if_true, update_run, publishSample_eq_published hcfg]

/-! ### ALSCALC (R203) -/

theorem getX_two (s : State) : getX s 2 = s.x[2] := getX_of_lt (by decide) s

/-- The operands read: the check of the two counts, then their sample. -/
theorem exec_alscalc (s : State) :
    exec .alscalc s = complete (require (decide ((s.x[1]).toNat < 2 ^ 31) && decide ((s.x[2]).toNat < 2 ^ 31)) 0 >>=
      fun _ => alsCompute (s.x[1]).toNat (s.x[2]).toNat >>= fun _ => update fun t => setX 0 t.als.lux t) s := by
  rw [← getX_one, ← getX_two]
  rfl

theorem exec_alscalc_of_large (h : 2 ^ 31 ≤ (s.x[1]).toNat ∨ 2 ^ 31 ≤ (s.x[2]).toNat) :
    exec .alscalc s = .next (faulted 3 0 s) := by
  have hbad : (decide ((s.x[1]).toNat < 2 ^ 31) && decide ((s.x[2]).toNat < 2 ^ 31)) = false := by
    rw [Bool.and_eq_false_iff, decide_eq_false_iff_not, decide_eq_false_iff_not]
    omega
  rw [exec_alscalc]
  exact complete_refused (bind_of_error (require_bad hbad 0 s) _)

theorem exec_alscalc_of_counts (hcfg : configOk s.cfg = true) (hc : (s.x[1]).toNat < 2 ^ 31)
    (hw : (s.x[2]).toNat < 2 ^ 31) :
    exec .alscalc s = .next (completed { published (s.x[1]).toNat (s.x[2]).toNat s with
      x := s.x.set 0 (BitVec.ofInt 64
        (luxEstimate s.als.coefA.toInt s.als.coefB.toInt (s.x[1]).toNat (s.x[2]).toNat)) }) := by
  have hcounts : (decide ((s.x[1]).toNat < 2 ^ 31) && decide ((s.x[2]).toNat < 2 ^ 31)) = true :=
    Bool.and_eq_true_iff.mpr ⟨decide_eq_true hc, decide_eq_true hw⟩
  rw [exec_alscalc, complete_congr (bind_of_ok (require_ok hcounts 0 s) _)]
  exact complete_value (alsCompute_ok hcfg (by omega) _) (·.als.lux)

/-! ### ALSSMP (R201, R202) -/

/-- A channel rescaled from its two bytes, in the statement's terms. -/
theorem rescale_le16 (b0 b1 : Byte) (k : Nat) :
    rescale (le16 b0 b1).toNat k =
      if k = 0 then 2 * (b0.toNat + 256 * b1.toNat) else (b0.toNat + 256 * b1.toNat) / 2 ^ (k - 1) := by
  rw [rescale, le16_toNat, Nat.shiftRight_eq_div_pow]

theorem scaleOf_eq (st mask : Byte) (shift : Nat) : scaleOf st mask shift = (st &&& mask).toNat / 2 ^ shift :=
  Nat.shiftRight_eq_div_pow _ _

theorem alsData_lt {c : Config} (hcfg : configOk c = true) : c.reg.alsData.toNat < regMax c :=
  symbolicId_lt hcfg (by simp [symbolicIds])

theorem alsStat_lt {c : Config} (hcfg : configOk c = true) : c.reg.alsStat.toNat < regMax c :=
  symbolicId_lt hcfg (by simp [symbolicIds])

theorem alsSample_of_shortTransfer (hcfg : configOk s.cfg = true) (h : s.cfg.bus.xferMax < 4) :
    alsSample s = .error ⟨.preconditionViolation, 4⟩ s :=
  bind_of_error (getBuf_badLength (alsData_lt hcfg) (.inr h)) _

theorem alsSample_of_dataFails {b : Bus} (hcfg : configOk s.cfg = true) (hx : 4 ≤ s.cfg.bus.xferMax)
    (h : readFails s.cfg s.bus s.cfg.reg.alsData 4 b) :
    alsSample s = .error ⟨.transportError, s.cfg.reg.alsData.setWidth 16⟩
      { s with dc := countFailure s.dc, bus := b } :=
  bind_of_error (getBuf_fail (alsData_lt hcfg) (by decide) hx h) _

section
variable {b1 b2 : Bus} {r0 r1 r2 r3 st : Byte} (hcfg : configOk s.cfg = true) (hx : 4 ≤ s.cfg.bus.xferMax)
  (hdata : readOk s.cfg s.bus s.cfg.reg.alsData 4 [r0, r1, r2, r3] b1)
include hcfg hx hdata

theorem alsSample_of_statusFails (h : readFails s.cfg b1 s.cfg.reg.alsStat 1 b2) :
    alsSample s = .error ⟨.transportError, s.cfg.reg.alsStat.setWidth 16⟩
      { s with dc := countFailure s.dc, bus := b2 } :=
  (bind_of_ok (getBuf_ok (alsData_lt hcfg) (by decide) hx hdata) _).trans
    (bind_of_error (getByte_fail (s := { s with bus := b1 }) (alsStat_lt hcfg) h) _)

/-- After both reads: the check of the two scales, then the sample of the rescaled counts. -/
theorem alsSample_of_reads (hstat : readOk s.cfg b1 s.cfg.reg.alsStat 1 [st] b2) {sC sW : Nat}
    (hC : scaleOf st s.cfg.mask.scaleC s.cfg.mask.scaleCShift = sC)
    (hW : scaleOf st s.cfg.mask.scaleW s.cfg.mask.scaleWShift = sW) :
    alsSample s = (require (decide (sC ≤ 15) && decide (sW ≤ 15)) (st.setWidth 16) >>= fun _ =>
      alsCompute (rescale (le16 r0 r1).toNat sC) (rescale (le16 r2 r3).toNat sW))
        { s with dc := noteRead s.cfg s.cfg.reg.alsStat st s.dc, bus := b2 } := by
  subst hC hW
  exact (bind_of_ok (getBuf_ok (alsData_lt hcfg) (by decide) hx hdata) _).trans
    (bind_of_ok (getByte_noteRead (s := { s with bus := b1 }) (alsStat_lt hcfg) hstat) _)

end

end

/-- Settles O53: the two reads in their order, each with its failure, then the check of the scales. (`alsSample` is the
procedure.) -/
theorem alsSample_holds : Obligations.AlsSample := by
  intro s hcfg c rescaled
  have hrescaled (b0 b1 : Byte) (k : Nat) : rescale (le16 b0 b1).toNat k = rescaled b0 b1 k := rescale_le16 b0 b1 k
  refine ⟨fun hx => complete_refused (bind_of_error (alsSample_of_shortTransfer hcfg hx) _), fun hx =>
    ⟨fun b h => complete_transport (bind_of_error (alsSample_of_dataFails hcfg hx h) _), fun r0 r1 r2 r3 b1 hdata =>
      ⟨fun b h => complete_transport (bind_of_error (alsSample_of_statusFails hcfg hx hdata h) _),
        fun st b2 hstat => ?bothRead⟩⟩⟩
  case bothRead =>
    intro sC sW s'
    have hrun := alsSample_of_reads hcfg hx hdata hstat (scaleOf_eq _ _ _) (scaleOf_eq _ _ _)
    refine ⟨fun h => ?badScale, fun hC hW => ?scaled⟩
    case badScale =>
      have hbad : (decide (sC ≤ 15) && decide (sW ≤ 15)) = false := by
        rw [Bool.and_eq_false_iff, decide_eq_false_iff_not, decide_eq_false_iff_not]
        omega
      exact complete_fault (bind_of_error (hrun.trans (bind_of_error (require_bad hbad _ _) _)) _)
    case scaled =>
      have hok : (decide (sC ≤ 15) && decide (sW ≤ 15)) = true :=
        Bool.and_eq_true_iff.mpr ⟨decide_eq_true hC, decide_eq_true hW⟩
      intro cc ww
      have hdone : alsSample s = .ok () (published cc ww s') := by
        simp only [cc, ww, ← hrescaled]
        exact hrun.trans ((bind_of_ok (require_ok hok _ _) _).trans (alsCompute_ok (s := s') hcfg (rescale_lt _) _))
      exact complete_value hdone (·.als.lux)

/-- Settles O52: the check of the two counts, then the sample, whose lux fits and so enters the average exactly. -/
theorem alsCalculation : Obligations.AlsCalculation := by
  intro s hcfg c w lux
  refine ⟨exec_alscalc_of_large, fun hc hw => ⟨exec_alscalc_of_counts hcfg hc hw, fun havg => ?average⟩⟩
  case average => exact luxAverageOf_halfSum havg _ (luxEstimate_fits _ _ (by omega) _)

/-- Settles O54: the gains are copied, and the plain averages are 32-bit counts, whose sample is published.
(`alsEquivalent` is the procedure.) -/
theorem alsEquivalent_holds : Obligations.AlsEquivalent := by
  intro s hcfg c w s'
  have hdone : alsEquivalent s = .ok () (published c w s') :=
    alsCompute_ok (s := copyGains s) hcfg (BitVec.isLt _) _
  exact complete_value hdone (·.als.lux)

end Sys2Proof.Machine
end

section
/-! Configuration and results (46_dispatch.md R217 to R221): what a list of setFields leaves of the mode, the
re-initialised contexts, and the fields GETALS packs into one register. -/

namespace Sys2Proof.Machine

/-! ### Lists of setFields -/

theorem fieldDone_mode {c : Config} {w : FieldWrite} {b b' : Bus} {dc dc' : DeviceContext} {wrote : Bool}
    (h : fieldDone c w b dc b' dc' wrote) : dc'.mode = dc.mode := by
  obtain ⟨orig, b1, -, ⟨-, -, -, rfl⟩ | ⟨-, -, -, rfl⟩⟩ := h <;> rfl

/-- The mode is no shadow of a register: no setField changes it. -/
theorem burstDone_mode {c : Config} {ws : List FieldWrite} {b b' : Bus} {dc dc' : DeviceContext}
    (h : burstDone c ws b dc b' dc') : dc'.mode = dc.mode := by
  induction ws generalizing b dc with
  | nil =>
    obtain ⟨-, rfl⟩ := h
    rfl
  | cons w ws ih =>
    obtain ⟨b1, dc1, wrote, hw, hws⟩ := h
    exact (ih hws).trans (fieldDone_mode hw)

theorem enableSeq_ok {c : Config} (hc : configOk c = true) (flk : Bool) (t : Trigger) :
    ∀ w ∈ enableSeq c flk t, fieldWriteOk c w = true :=
  fun w hw => sequence_ok hc flk t w (List.mem_append_left _ hw)

theorem disableSeq_ok {c : Config} (hc : configOk c = true) (flk : Bool) :
    ∀ w ∈ disableSeq c flk, fieldWriteOk c w = true :=
  fun w hw => sequence_ok hc flk .int w (List.mem_append_right _ hw)

/-- Every triple SETTHR does is a legal setField: the reference list by the configuration, a free one by its filter
(log 6). -/
theorem thrWriteList_ok {c : Config} (hc : configOk c = true) (thr : U16) :
    ∀ w ∈ thrWriteList c thr, fieldWriteOk c w = true := by
  intro w hw
  unfold thrWriteList at hw
  split at hw
  case h_1 =>
    have hlow : c.reg.fifoThr.toNat < regMax c := symbolicId_lt hc (by simp [symbolicIds])
    have hhigh : c.reg.fifoThrH.toNat < regMax c := symbolicId_lt hc (by simp [symbolicIds])
    have hmask (v : Byte) : v &&& ~~~0xFF = 0 := BitVec.and_zero
    rcases List.mem_pair.mp hw with rfl | rfl
    · exact fieldWriteOk_iff.mpr ⟨hlow, hmask _⟩
    · exact fieldWriteOk_iff.mpr ⟨hhigh, hmask _⟩
  case h_2 => exact (List.mem_filter.mp hw).2

theorem thrWriteList_lowHigh {c : Config} (h : c.thrWrites = .lowHigh) (thr : U16) :
    thrWriteList c thr = [⟨c.reg.fifoThr, BitVec.ofNat 8 thr.toNat, 0xFF⟩,
      ⟨c.reg.fifoThrH, BitVec.ofNat 8 (thr.toNat / 256), 0xFF⟩] := by
  rw [← lowByte_eq, ← highByte_eq]
  simp only [thrWriteList, h, lowByte, highByte]

section
variable {s : State}

/-! ### SETTHR (R219) -/

theorem exec_setthr_of_bad {thr : U16} (h : thr = 0 ∨ s.cfg.flk.ringMax < thr.toNat) :
    exec (.setthr thr) s = .next (faulted 3 thr s) := by
  have hbad : (thr != 0 && decide (thr.toNat ≤ s.cfg.flk.ringMax)) = false := by
    rw [Bool.and_eq_false_iff, bne_eq_false_iff_eq, decide_eq_false_iff_not, Nat.not_le]
    exact h
  exact complete_refused (bind_of_error (require_bad hbad _ _) _)

theorem exec_setthr_of_fits {thr : U16} (h0 : thr ≠ 0) (hmax : thr.toNat ≤ s.cfg.flk.ringMax) :
    exec (.setthr thr) s =
      complete (setFields (thrWriteList s.cfg thr) >>= fun _ => update (storeThreshold thr)) s := by
  have hok : (thr != 0 && decide (thr.toNat ≤ s.cfg.flk.ringMax)) = true :=
    Bool.and_eq_true_iff.mpr ⟨bne_iff_ne.mpr h0, decide_eq_true hmax⟩
  exact complete_congr (bind_of_ok (require_ok hok _ _) _)

/-! ### FEATDIS (R218) -/

/-- `DC.mode[f] <- 0`. -/
def clearMode (flk : Bool) (s : State) : State := { s with dc := { s.dc with mode := s.dc.mode &&& ~~~modeBit flk } }

theorem exec_featdis_of_feature {feat : Byte} (h : feat.toNat ≤ 1) :
    exec (.featdis feat) s = complete (setFields (disableSeq s.cfg (decide (feat = 1))) >>= fun _ =>
      update (clearMode (decide (feat = 1)))) s :=
  complete_congr (bind_of_ok (flagOperand_ok h) _)

theorem modeBit_eq (feat : Byte) : modeBit (decide (feat = 1)) = if feat = 1 then 2 else 1 := by
  simp only [modeBit, decide_eq_true_eq]
  rfl

/-- With two features, all bits but one feature's are the other's. -/
theorem not_modeBit_eq (feat : Byte) : ~~~modeBit (decide (feat = 1)) = if feat = 1 then 1 else 2 := by
  rw [modeBit_eq]
  split <;> rfl

/-! ### FEATEN (R217, R287, R288) -/

/-- A re-initialised context of the feature (R287, R288). -/
def reinit (flk : Bool) : State → State := if flk then reinitFlicker else reinitAls

@[simp] theorem reinit_cfg (flk : Bool) (s : State) : (reinit flk s).cfg = s.cfg := by cases flk <;> rfl
@[simp] theorem reinit_dc (flk : Bool) (s : State) : (reinit flk s).dc = s.dc := by cases flk <;> rfl
@[simp] theorem reinit_bus (flk : Bool) (s : State) : (reinit flk s).bus = s.bus := by cases flk <;> rfl

/-- The window generated fills its buffer. -/
theorem reinitFlicker_eq (hs : s.Legal) :
    reinitFlicker s = { s with
      flk := flickerInit s.cfg s.flk.fifoThreshold
      buf := { s.buf with ringLen := 0, win := s.cfg.winTab } } := by
  have hlen : s.cfg.winTab.length = s.buf.win.length := (configOk_sizes hs.cfg).1.trans hs.buf.win.symm
  rw [reinitFlicker, windowGenerate, overlay_of_length_eq hlen]

variable {feat trig : Byte}

theorem exec_featen_of_badFeature (h : 1 < feat.toNat) :
    exec (.featen feat trig) s = .next (faulted 3 (feat.setWidth 16) s) :=
  complete_refused (bind_of_error (flagOperand_bad h) _)

/-- The trigger mode of an operand is one that the mode allows. -/
def TriggerFits (s : State) (t : Trigger) : Prop := s.dc.mode = 0 ∨ s.dc.trig = t

theorem exec_featen_of_badTrigger (hfeat : feat.toNat ≤ 1)
    (h : 1 < trig.toNat ∨ ¬ TriggerFits s (triggerOf (decide (trig = 1)))) :
    exec (.featen feat trig) s = .next (faulted 3 (trig.setWidth 16) s) := by
  refine complete_refused ((bind_of_ok (flagOperand_ok hfeat) _).trans ?_)
  by_cases htrig : 1 < trig.toNat
  · exact bind_of_error (flagOperand_bad htrig) _
  · refine (bind_of_ok (flagOperand_ok (Nat.not_lt.mp htrig)) _).trans (bind_of_error (require_bad ?_ _ _) _)
    rw [← Bool.not_eq_true, Bool.or_eq_true, beq_iff_eq, beq_iff_eq]
    exact h.resolve_left htrig

/-- Past its checks FEATEN is the enabling list and the marking, from the re-initialised context. -/
theorem exec_featen_of_fits (hfeat : feat.toNat ≤ 1) (htrig : trig.toNat ≤ 1)
    (h : TriggerFits s (triggerOf (decide (trig = 1)))) :
    exec (.featen feat trig) s =
      complete (setFields (enableSeq s.cfg (decide (feat = 1)) (triggerOf (decide (trig = 1)))) >>= fun _ =>
        update (markEnabled (decide (feat = 1)) (triggerOf (decide (trig = 1))))) (reinit (decide (feat = 1)) s) := by
  have hok : (s.dc.mode == 0 || s.dc.trig == triggerOf (decide (trig = 1))) = true := by
    rw [Bool.or_eq_true, beq_iff_eq, beq_iff_eq]
    exact h
  rw [← reinit_cfg (decide (feat = 1)) s]
  exact complete_congr ((bind_of_ok (flagOperand_ok hfeat) _).trans ((bind_of_ok (flagOperand_ok htrig) _).trans
    (bind_of_ok (require_ok hok _ _) _)))

end

/-- The marks of a feature on its re-initialised context, after a list of setFields that left the mode as it was. -/
theorem markEnabled_reinit {s : State} {feat : Byte} {bus : Bus} {dc : DeviceContext} (t : Trigger)
    (hmode : dc.mode = s.dc.mode) :
    let ready := reinit (decide (feat = 1)) s
    markEnabled (decide (feat = 1)) t { ready with dc := dc, bus := bus } = { ready with
      als := { ready.als with state := if feat = 1 then s.als.state else .rgb }
      dc := { dc with mode := s.dc.mode ||| (if feat = 1 then 2 else 1), trig := t }
      bus := bus } := by
  intro ready
  rw [markEnabled, modeBit_eq, hmode]
  by_cases h : feat = 1
  · simp only [ready, h, decide_true, if_true]
    rfl
  · simp only [h, decide_false, if_false, Bool.false_eq_true]

/-- Settles O57: the refusals in their order, then the list of setFields from the re-initialised context. -/
theorem featureEnable : Obligations.FeatureEnable := by
  intro s feat trig hs c flk t seq ready
  have ht : triggerOf (decide (trig = 1)) = t := by simp only [triggerOf, decide_eq_true_eq, t]
  have hready : reinit flk s = ready := by
    simp only [reinit, flk, ready, decide_eq_true_eq]
    split
    · exact reinitFlicker_eq hs
    · rfl
  refine ⟨exec_featen_of_badFeature, fun hfeat h => exec_featen_of_badTrigger hfeat (h.imp_right ?misfit),
    fun hfeat htrig h => ?enabled⟩
  case misfit =>
    rw [ht]
    exact not_or.mpr
  case enabled =>
    have hrun := exec_featen_of_fits hfeat htrig (ht ▸ h)
    rw [ht] at hrun
    rw [hrun, ← hready]
    have hok : ∀ w ∈ seq, fieldWriteOk (reinit flk s).cfg w = true := by
      rw [reinit_cfg]
      exact enableSeq_ok hs.cfg flk t
    refine ⟨fun bus dc h => ?done, fun reg bus dc h => complete_transport (bind_of_error (setFields_fails hok ?_) _)⟩
    case done =>
      rw [← markEnabled_reinit t (burstDone_mode h)]
      refine complete_ok (bind_of_ok (setFields_done hok ?_) _)
      rwa [reinit_cfg, reinit_dc, reinit_bus]
    rwa [reinit_cfg, reinit_dc, reinit_bus]

/-- Settles O58: the list of setFields, then one bit of the mode, which the list left as it was. -/
theorem featureDisable : Obligations.FeatureDisable := by
  intro s feat hc c seq
  refine ⟨fun h => complete_refused (bind_of_error (flagOperand_bad h) _), fun hfeat => ?feature⟩
  case feature =>
    have hseq : disableSeq c (decide (feat = 1)) = seq := by simp only [disableSeq, decide_eq_true_eq, seq]
    obtain ⟨hdone, hfails⟩ := setting_of_fields (disableSeq_ok hc _) (exec_featdis_of_feature hfeat)
    rw [hseq] at hdone hfails
    refine ⟨fun bus dc h => (hdone bus dc h).trans ?_, hfails⟩
    rw [clearMode, not_modeBit_eq, burstDone_mode h]

/-- Settles O59: the check of the operand, then the list of setFields and the threshold. -/
theorem setThreshold : Obligations.SetThreshold := by
  intro s thr hc c seq
  exact ⟨fun h => thrWriteList_lowHigh h thr, fun w hw => fieldWriteOk_iff.mp (thrWriteList_ok hc thr w hw),
    exec_setthr_of_bad, fun h0 hmax => setting_of_fields (thrWriteList_ok hc thr) (exec_setthr_of_fits h0 hmax)⟩

/-! ### GETALS and GETFLK (R220, R221) -/

/-- Two fields packed into one register, the second from a bit on that the first does not reach. -/
theorem packed_eq_ofNat {v w k : Nat} (lo : BitVec v) (hi : BitVec w) (h : v ≤ k) :
    (lo.setWidth 64 ||| hi.setWidth 64 <<< k : U64) = BitVec.ofNat 64 (lo.toNat + 2 ^ k * hi.toNat) := by
  have hlt : lo.toNat < 2 ^ k := lo.isLt.trans_le (Nat.pow_le_pow_right (by decide) h)
  have hsum : lo.toNat + 2 ^ k * hi.toNat = lo.toNat ||| hi.toNat <<< k := by
    rw [Nat.or_comm, ← Nat.shiftLeft_add_eq_or_of_lt hlt, Nat.shiftLeft_eq, Nat.mul_comm, Nat.add_comm]
  have hshift : hi.setWidth 64 <<< k = BitVec.ofNat 64 (hi.toNat <<< k) := by
    apply BitVec.eq_of_toNat_eq
    simp [Nat.shiftLeft_eq]
  rw [hsum, hshift, setWidth_eq_ofNat, BitVec.ofNat_or]

theorem alsResult_eq (s : State) : alsResult s = #v[
    BitVec.ofNat 64 s.als.clearCorr.toNat, BitVec.ofNat 64 s.als.ir.toNat, BitVec.ofNat 64 s.als.wideCorr.toNat,
    BitVec.ofNat 64 (s.als.gainC.toNat + 256 * s.als.gainW.toNat),
    BitVec.ofNat 64 (s.als.rawClear.toNat + 2 ^ 32 * s.als.rawWide.toNat),
    BitVec.ofNat 64 s.als.itime.toNat, s.als.lux, if s.flk.satf = true then 1 else 0] := by
  have hgains := packed_eq_ofNat (k := 8) s.als.gainC s.als.gainW (by decide)
  have hraws := packed_eq_ofNat (k := 32) s.als.rawClear s.als.rawWide (by decide)
  rw [alsResult, hgains, hraws, flagWord_eq]
  simp only [setWidth_eq_ofNat, Nat.reducePow]

/-- Settles O60: both operations are one update of `x`. -/
theorem resultsAreSnapshots : Obligations.ResultsAreSnapshots := by
  intro s
  rw [← alsResult_eq, ← setWidth_eq_ofNat 64 s.flk.freq, ← setX_zero]
  exact ⟨complete_ok (update_run _ s), complete_ok (update_run _ s)⟩

end Sys2Proof.Machine
end

section
/-! The update flags (10_state.md R26, 46_dispatch.md R216): no step of a pass of DISPATCH takes an update flag back,
whichever way it ends; only DISPATCH itself clears them, once it has reported them. -/

namespace Sys2Proof.Machine

/-- No update flag that was raised is lost. -/
def UpdatesKept (s t : State) : Prop := s.dc.update &&& ~~~t.dc.update = 0

theorem UpdatesKept.of_eq {s t : State} (h : t.dc.update = s.dc.update) : UpdatesKept s t := by
  rw [UpdatesKept, h]
  exact BitVec.and_not_self _

theorem UpdatesKept.refl (s : State) : UpdatesKept s s := .of_eq rfl

theorem UpdatesKept.trans (s t u : State) (h : UpdatesKept s t) (k : UpdatesKept t u) : UpdatesKept s u := by
  have hbits : ∀ a b c : BitVec 2, a &&& ~~~b = 0 → b &&& ~~~c = 0 → a &&& ~~~c = 0 := by decide
  exact hbits _ _ _ h k

theorem updatesKept_raiseUpdate (flags : BitVec 2) (s : State) : UpdatesKept s (raiseUpdate flags s) := by
  have hbits : ∀ a f : BitVec 2, a &&& ~~~(a ||| f) = 0 := by decide
  exact hbits _ _

theorem updatesKept_bus : BusRel UpdatesKept where
  refl := .refl
  trans := .trans
  read _ _ _ := .of_eq rfl
  write _ _ _ := .of_eq rfl
  count _ := .of_eq rfl
  shadowRead _ _ _ := .of_eq rfl
  shadowWrite _ _ _ := .of_eq rfl

/-! ### The ways of building a procedure -/

section
variable {α β : Type} {p : Proc α} {k : α → Proc β}

theorem updatesKept_pure (a : α) : Keeps UpdatesKept (pure a : Proc α) := keeps_pure .refl a

theorem updatesKept_raise (code : FaultCode) (info : U16) : Keeps UpdatesKept (raise code info : Proc α) :=
  keeps_raise .refl code info

theorem updatesKept_update {f : State → State} (h : ∀ s, (f s).dc.update = s.dc.update) :
    Keeps UpdatesKept (update f) :=
  keeps_update fun s => .of_eq (h s)

theorem updatesKept_bind (hp : Keeps UpdatesKept p) (hk : ∀ a, Keeps UpdatesKept (k a)) :
    Keeps UpdatesKept (p >>= k) :=
  keeps_bind UpdatesKept.trans hp hk

theorem updatesKept_look_bind {f : State → α} (hk : ∀ a, Keeps UpdatesKept (k a)) : Keeps UpdatesKept (look f >>= k) :=
  updatesKept_bind (keeps_look .refl f) hk

theorem updatesKept_require_bind {ok : Bool} {info : U16} {k : Unit → Proc β} (hk : ∀ a, Keeps UpdatesKept (k a)) :
    Keeps UpdatesKept (require ok info >>= k) :=
  updatesKept_bind (keeps_require .refl ok info) hk

theorem updatesKept_onlyIf (c : Bool) {p : Proc Unit} (hp : Keeps UpdatesKept p) : Keeps UpdatesKept (onlyIf c p) :=
  keeps_onlyIf .refl c hp

end

/-! ### The drain (42_fifo_parser.md R151 to R153) -/

theorem updatesKept_resetAndAbort : Keeps UpdatesKept resetAndAbort :=
  updatesKept_bind (keeps_fifoClear updatesKept_bus) fun _ => updatesKept_update fun _ => rfl

theorem updatesKept_drainChunks (fuel rem : Nat) : Keeps UpdatesKept (drainChunks fuel rem) := by
  induction fuel generalizing rem with
  | zero => exact updatesKept_pure true
  | succ fuel ih =>
    exact keeps_ite _ (updatesKept_pure true) (updatesKept_look_bind fun _ => keeps_ite _ (updatesKept_pure false)
      (updatesKept_bind (keeps_getBuf updatesKept_bus _ _) fun _ =>
        updatesKept_bind (updatesKept_update fun _ => rfl) fun _ => ih _))

theorem updatesKept_drain : Keeps UpdatesKept drain :=
  updatesKept_look_bind fun _ => updatesKept_bind (keeps_getByte updatesKept_bus _) fun _ =>
    updatesKept_bind (keeps_getByte updatesKept_bus _) fun _ => keeps_ite _
      (updatesKept_bind updatesKept_resetAndAbort fun _ => updatesKept_pure false)
      (updatesKept_bind (updatesKept_drainChunks _ _) fun _ => keeps_ite _
        (updatesKept_bind (updatesKept_update fun _ => rfl) fun _ => keeps_look .refl _)
        (updatesKept_bind updatesKept_resetAndAbort fun _ => updatesKept_pure false))

/-! ### The analysis (43_flicker.md R172): no step of it touches the device context -/

theorem updatesKept_checkFrameSize (n : U16) : Keeps UpdatesKept (checkFrameSize n) :=
  updatesKept_look_bind fun _ => keeps_require .refl _ _

theorem updatesKept_deinterleave : Keeps UpdatesKept deinterleave :=
  updatesKept_look_bind fun _ => updatesKept_bind (updatesKept_checkFrameSize _) fun _ =>
    updatesKept_look_bind fun _ => updatesKept_require_bind fun _ => updatesKept_update fun _ => rfl

theorem updatesKept_parseMeta : Keeps UpdatesKept parseMeta :=
  updatesKept_look_bind fun _ => updatesKept_require_bind fun _ => updatesKept_update fun _ => rfl

theorem updatesKept_frameAverages : Keeps UpdatesKept frameAverages :=
  updatesKept_look_bind fun _ => updatesKept_bind (updatesKept_checkFrameSize _) fun _ =>
    updatesKept_update fun _ => rfl

theorem updatesKept_gainNormalise : Keeps UpdatesKept gainNormalise :=
  updatesKept_look_bind fun _ => updatesKept_look_bind fun _ => updatesKept_look_bind fun _ =>
    updatesKept_require_bind fun _ => updatesKept_require_bind fun _ => updatesKept_update fun _ => rfl

theorem updatesKept_window : Keeps UpdatesKept window :=
  updatesKept_look_bind fun _ => updatesKept_require_bind fun _ => updatesKept_update fun _ => rfl

theorem updatesKept_fft (n : U16) : Keeps UpdatesKept (fft n) := by
  refine updatesKept_look_bind fun _ => keeps_ite _ (updatesKept_pure ()) (updatesKept_require_bind fun _ =>
    updatesKept_look_bind fun _ => ?_)
  split
  · exact updatesKept_update fun _ => rfl
  · exact updatesKept_bind (updatesKept_update fun _ => rfl) fun _ => updatesKept_raise _ _

theorem updatesKept_magnitude (n : U16) : Keeps UpdatesKept (magnitude n) := by
  refine updatesKept_look_bind fun _ => updatesKept_require_bind fun _ => updatesKept_look_bind fun _ => ?_
  split
  · exact updatesKept_update fun _ => rfl
  · exact updatesKept_bind (updatesKept_update fun _ => rfl) fun _ => updatesKept_raise _ _

theorem updatesKept_adaptiveThreshold : Keeps UpdatesKept adaptiveThreshold :=
  updatesKept_look_bind fun _ => keeps_ite _ (updatesKept_raise _ _) (keeps_ite _ (updatesKept_raise _ _)
    (updatesKept_update fun _ => rfl))

theorem updatesKept_decideFrequency : Keeps UpdatesKept decideFrequency :=
  updatesKept_look_bind fun _ => updatesKept_require_bind fun _ => keeps_ite _
    (keeps_ite _ (updatesKept_raise _ _) (updatesKept_update fun _ => rfl)) (updatesKept_update fun _ => rfl)

theorem updatesKept_analyseFrame (n : U16) : Keeps UpdatesKept (analyseFrame n) :=
  updatesKept_bind updatesKept_deinterleave fun _ => updatesKept_bind updatesKept_parseMeta fun _ =>
    updatesKept_bind updatesKept_frameAverages fun _ => updatesKept_bind updatesKept_gainNormalise fun _ =>
      updatesKept_bind updatesKept_window fun _ => updatesKept_bind (updatesKept_fft n) fun _ =>
        updatesKept_bind (updatesKept_magnitude n) fun _ => updatesKept_bind updatesKept_adaptiveThreshold fun _ =>
          updatesKept_bind (updatesKept_update fun _ => rfl) fun _ => updatesKept_decideFrequency

/-! ### The services of a pass -/

theorem updatesKept_flickerCycle : Keeps UpdatesKept flickerCycle :=
  updatesKept_bind (updatesKept_update fun _ => rfl) fun _ => updatesKept_bind updatesKept_drain fun _ => keeps_ite _
    (updatesKept_look_bind fun _ => updatesKept_look_bind fun _ =>
      updatesKept_bind (updatesKept_onlyIf _ (updatesKept_analyseFrame _)) fun _ =>
        updatesKept_bind (keeps_fifoClear updatesKept_bus) fun _ =>
          updatesKept_bind (updatesKept_update fun _ => rfl) fun _ => updatesKept_pure _)
    (updatesKept_pure false)

/-- A published sample raises its flag. -/
theorem updatesKept_alsCompute (clear wide : Nat) : Keeps UpdatesKept (alsCompute clear wide) :=
  updatesKept_look_bind fun _ => keeps_ite _
    (keeps_update fun s => updatesKept_raiseUpdate alsUpd s)
    (updatesKept_raise _ _)

theorem updatesKept_alsSample : Keeps UpdatesKept alsSample :=
  updatesKept_look_bind fun _ => updatesKept_bind (keeps_getBuf updatesKept_bus _ _) fun _ =>
    updatesKept_bind (keeps_getByte updatesKept_bus _) fun _ => updatesKept_require_bind fun _ =>
      updatesKept_alsCompute _ _

theorem updatesKept_alsEquivalent : Keeps UpdatesKept alsEquivalent :=
  updatesKept_bind (updatesKept_update fun _ => rfl) fun _ => updatesKept_look_bind fun _ => updatesKept_alsCompute _ _

theorem updatesKept_serveFlicker (st : Byte) : Keeps UpdatesKept (serveFlicker st) :=
  updatesKept_look_bind fun _ => updatesKept_look_bind fun _ => updatesKept_onlyIf _ <|
    updatesKept_bind updatesKept_flickerCycle fun _ => updatesKept_onlyIf _ <|
      updatesKept_bind updatesKept_alsEquivalent fun _ => keeps_update (updatesKept_raiseUpdate _)

theorem updatesKept_serveAls (st : Byte) : Keeps UpdatesKept (serveAls st) :=
  updatesKept_look_bind fun _ => updatesKept_look_bind fun _ => updatesKept_onlyIf _ updatesKept_alsSample

theorem updatesKept_writeBack (st : Byte) : Keeps UpdatesKept (writeBack st) :=
  updatesKept_look_bind fun _ => updatesKept_onlyIf _ (keeps_setByte updatesKept_bus _ st)

theorem updatesKept_readStatus : Keeps UpdatesKept readStatus :=
  updatesKept_look_bind fun _ => keeps_getByte updatesKept_bus _

theorem updatesKept_dispatchPass : Keeps UpdatesKept dispatchPass :=
  updatesKept_bind updatesKept_readStatus fun st => updatesKept_bind (updatesKept_serveFlicker st) fun _ =>
    updatesKept_bind (updatesKept_serveAls st) fun _ =>
      updatesKept_bind (updatesKept_writeBack st) fun _ => updatesKept_readStatus

theorem updatesKept_dispatchLoop (more : Nat) : Keeps UpdatesKept (dispatchLoop more) := by
  induction more with
  | zero => exact updatesKept_dispatchPass
  | succ more ih => exact updatesKept_bind updatesKept_dispatchPass fun _ => keeps_ite _ (updatesKept_pure 0) ih

end Sys2Proof.Machine
end

section
/-! DISPATCH (46_dispatch.md R216, 60_exceptions.md R265): the passes that re-read non-zero only use up the cap, so that
DISPATCH ends as the first other pass does, or with the last status once the cap is used up. -/

namespace Sys2Proof.Machine

/-! ### The loop after some passes -/

section
variable {s t u : State} {e : Raised} {st2 : Byte}

/-- A pass that re-reads 0 leaves the loop, however many more are allowed. -/
theorem dispatchLoop_of_cleared (h : dispatchPass s = .ok 0 t) (more : Nat) : dispatchLoop more s = .ok 0 t := by
  cases more with
  | zero => exact h
  | succ more => exact bind_of_ok h _

theorem dispatchLoop_of_raises (h : dispatchPass s = .error e t) (more : Nat) : dispatchLoop more s = .error e t := by
  cases more with
  | zero => exact h
  | succ more => exact bind_of_error h _

/-- A pass that re-reads non-zero uses up one of those allowed. -/
theorem dispatchLoop_of_latched (h : dispatchPass s = .ok st2 t) (hst : st2 ≠ 0) (more : Nat) :
    dispatchLoop (more + 1) s = dispatchLoop more t := by
  rw [dispatchLoop, bind_of_ok h, if_neg hst]

theorem dispatchLoop_of_unfinished {k : Nat} (h : unfinishedPasses k s u) (more : Nat) :
    dispatchLoop (more + k) s = dispatchLoop more u := by
  induction k generalizing s with
  | zero =>
    cases h
    rfl
  | succ k ih =>
    obtain ⟨st2, v, hpass, hst, hrest⟩ := h
    calc dispatchLoop (more + (k + 1)) s = dispatchLoop (more + k) v :=
          dispatchLoop_of_latched ((passReturns_iff st2).mp hpass) hst _
      _ = dispatchLoop more u := ih hrest

/-! ### The operation from its loop -/

/-- How many passes DISPATCH runs at most: the cap, or the fuel of an infinite one (log 7). -/
def passLimit : DispatchCap → Nat
  | .passes n => n
  | .unbounded fuel => fuel + 1

/-- The loop of DISPATCH, entered with the phase Dispatch. -/
def loopRun (s : State) : EStateM.Result Raised State Byte :=
  dispatchLoop (passLimit s.cfg.dispatchCap - 1) (setPhase .dispatch s)

theorem inDispatch_ok {α : Type} {p : Proc α} {a : α} (h : p (setPhase .dispatch s) = .ok a t) :
    inDispatch p s = .ok a (setPhase .idle t) := by
  simp only [inDispatch, h]

theorem inDispatch_error {α : Type} {p : Proc α} (h : p (setPhase .dispatch s) = .error e t) :
    inDispatch p s = .error e (setPhase .idle t) := by
  simp only [inDispatch, h]

/-- The loop left at status 0. -/
theorem exec_dispatch_of_cleared (h : loopRun s = .ok 0 t) :
    exec .dispatch s = .next (completed (consumeUpdate (setPhase .idle t))) := by
  have hloop := inDispatch_ok h
  show execDispatch s = _
  unfold execDispatch
  split
  next n hcap =>
    rw [hcap] at hloop
    exact complete_ok (bind_of_ok hloop _)
  next fuel hcap =>
    rw [hcap] at hloop
    have hrun : inDispatch (dispatchLoop fuel) s = .ok 0 (setPhase .idle t) := hloop
    rw [hrun]
    exact complete_ok (update_run consumeUpdate _)

/-- A fault in the loop. -/
theorem exec_dispatch_of_raises (h : loopRun s = .error e t) :
    exec .dispatch s = .next (faulted (statusOf e.code) e.info (setPhase .idle t)) := by
  have hloop := inDispatch_error h
  show execDispatch s = _
  unfold execDispatch
  split
  next n hcap =>
    rw [hcap] at hloop
    exact complete_fault (bind_of_error hloop _)
  next fuel hcap =>
    rw [hcap] at hloop
    have hrun : inDispatch (dispatchLoop fuel) s = .error e (setPhase .idle t) := hloop
    rw [hrun]
    exact congrArg _ (endOperation_fault (statusOf_ne_zero e.code) _ _)

/-- The loop that used up a finite cap (R265). -/
theorem exec_dispatch_of_latched {n : Nat} (hcap : s.cfg.dispatchCap = .passes n) (hst : st2 ≠ 0)
    (h : loopRun s = .ok st2 t) : exec .dispatch s = .next (faulted 6 (st2.setWidth 16) (setPhase .idle t)) := by
  have hloop := inDispatch_ok h
  rw [hcap] at hloop
  show execDispatch s = _
  simp only [execDispatch, hcap]
  refine complete_fault (code := .stuckInterrupt) ((bind_of_ok hloop _).trans ?_)
  rw [if_neg hst]
  rfl

/-- The loop writes no operand register. -/
theorem loopRun_x (s : State) : (left (loopRun s)).x = s.x :=
  (quiet_dispatchLoop (passLimit s.cfg.dispatchCap - 1) (setPhase .dispatch s)).x

theorem loopRun_updatesKept (s : State) : UpdatesKept s (left (loopRun s)) :=
  updatesKept_dispatchLoop (passLimit s.cfg.dispatchCap - 1) (setPhase .dispatch s)

/-- The update flags reported and cleared (R216 (5)). -/
theorem exec_dispatch_reports (h : loopRun s = .ok 0 t) :
    exec .dispatch s = .next (completed { t with
      x := s.x.set 0 (BitVec.ofNat 64 t.dc.update.toNat), dc := { t.dc with update := 0, phase := .idle } }) := by
  have hx : t.x = s.x := by simpa only [h, left_ok] using loopRun_x s
  rw [exec_dispatch_of_cleared h, consumeUpdate, setX_zero, setWidth_eq_ofNat, ← hx]
  rfl

/-- After fewer passes than are allowed the loop goes on. -/
theorem loopRun_of_unfinished {k : Nat} (hk : k < passLimit s.cfg.dispatchCap)
    (h : unfinishedPasses k (setPhase .dispatch s) u) :
    loopRun s = dispatchLoop (passLimit s.cfg.dispatchCap - 1 - k) u := by
  rw [loopRun, ← dispatchLoop_of_unfinished h, Nat.sub_add_cancel (Nat.le_sub_one_of_lt hk)]

end

/-! ### A pass that serves no feature, in terms of the bus -/

section
variable {s : State} {st v : Byte} {b b1 b2 : Bus}

theorem status_lt {c : Config} (hc : configOk c = true) : c.reg.status.toNat < regMax c :=
  symbolicId_lt hc (by simp [symbolicIds])

theorem readStatus_ok (hc : configOk s.cfg = true) (h : readOk s.cfg s.bus s.cfg.reg.status 1 [v] b) :
    readStatus s = .ok v { s with dc := noteRead s.cfg s.cfg.reg.status v s.dc, bus := b } :=
  getByte_noteRead (status_lt hc) h

theorem writeBack_ok (hc : configOk s.cfg = true) (hst : st ≠ 0) (h : writeOk s.cfg s.bus s.cfg.reg.status [st] b) :
    writeBack st s = .ok () { s with dc := noteWrite s.cfg s.cfg.reg.status st s.dc, bus := b } := by
  show onlyIf (st != 0) _ s = _
  rw [bne_iff_ne.mpr hst]
  exact setByte_ok (status_lt hc) h

theorem not_flickerDue (h : st &&& s.cfg.mask.stFlk = 0 ∨ s.dc.mode.getLsbD 1 = false) : ¬ flickerDue st s := by
  rintro ⟨hbit, hmode⟩
  rcases h with h | h
  · exact hbit h
  · rw [h] at hmode
    exact Bool.false_ne_true hmode

theorem not_alsDue (h : st &&& s.cfg.mask.stAls = 0 ∨ s.dc.mode.getLsbD 0 = false) : ¬ alsDue st s := by
  rintro ⟨hbit, hmode⟩
  rcases h with h | h
  · exact hbit h
  · rw [h] at hmode
    exact Bool.false_ne_true hmode

/-- With neither feature due, a pass is the read, the write-back and the re-read. -/
theorem dispatchPass_of_notDue (hc : configOk s.cfg = true) (hflk : ¬ flickerDue st s) (hals : ¬ alsDue st s)
    (h : readOk s.cfg s.bus s.cfg.reg.status 1 [st] b) :
    dispatchPass s = (writeBack st >>= fun _ => readStatus)
      { s with dc := noteRead s.cfg s.cfg.reg.status st s.dc, bus := b } := by
  have hflkServed := (flickerServed_iff (s := { s with dc := noteRead s.cfg s.cfg.reg.status st s.dc, bus := b }) st).mp
    (.inl ⟨hflk, rfl⟩)
  have halsServed := (alsServed_iff (s := { s with dc := noteRead s.cfg s.cfg.reg.status st s.dc, bus := b }) st).mp
    (.inl ⟨hals, rfl⟩)
  exact (bind_of_ok (readStatus_ok hc h) _).trans ((bind_of_ok hflkServed _).trans (bind_of_ok halsServed _))

/-- Status 0: nothing is written back. -/
theorem dispatchPass_of_zero (hc : configOk s.cfg = true) (h : readOk s.cfg s.bus s.cfg.reg.status 1 [0] b)
    (hre : readOk s.cfg b s.cfg.reg.status 1 [v] b1) :
    dispatchPass s = .ok v { s with
      dc := noteRead s.cfg s.cfg.reg.status v (noteRead s.cfg s.cfg.reg.status 0 s.dc), bus := b1 } :=
  (dispatchPass_of_notDue hc (not_flickerDue (.inl BitVec.zero_and)) (not_alsDue (.inl BitVec.zero_and)) h).trans
    (readStatus_ok (s := { s with dc := noteRead s.cfg s.cfg.reg.status 0 s.dc, bus := b }) hc hre)

/-- Latched bits of features that are off: they are written back. -/
theorem dispatchPass_of_off (hc : configOk s.cfg = true) (hst : st ≠ 0) (hflk : ¬ flickerDue st s)
    (hals : ¬ alsDue st s) (h : readOk s.cfg s.bus s.cfg.reg.status 1 [st] b)
    (hwrite : writeOk s.cfg b s.cfg.reg.status [st] b1) (hre : readOk s.cfg b1 s.cfg.reg.status 1 [v] b2) :
    dispatchPass s = .ok v { s with
      dc := noteRead s.cfg s.cfg.reg.status v
        (noteWrite s.cfg s.cfg.reg.status st (noteRead s.cfg s.cfg.reg.status st s.dc))
      bus := b2 } := by
  let read : State := { s with dc := noteRead s.cfg s.cfg.reg.status st s.dc, bus := b }
  have hwritten := writeBack_ok (s := read) hc hst hwrite
  exact (dispatchPass_of_notDue hc hflk hals h).trans ((bind_of_ok hwritten _).trans
    (readStatus_ok (s := { read with dc := noteWrite s.cfg s.cfg.reg.status st read.dc, bus := b1 }) hc hre))

end

/-- Settles O55: the loop goes on from the passes that re-read non-zero, and ends as the next pass does. -/
theorem dispatchServesAndClears : Obligations.DispatchServesAndClears := by
  constructor
  · intro s _ limit start idle
    refine ⟨fun k hk u hu => ⟨fun t ht => ?cleared, fun status info t ht => ?raises⟩,
      fun n hcap u st2 t hu ht hst => ?stuck⟩
    case cleared =>
      refine exec_dispatch_reports ((loopRun_of_unfinished hk hu).trans ?_)
      exact dispatchLoop_of_cleared ((passReturns_iff 0).mp ht) _
    case raises =>
      obtain ⟨e, he, rfl, rfl⟩ := passRaises_iff.mp ht
      have hloop : loopRun s = .error e t := (loopRun_of_unfinished hk hu).trans (dispatchLoop_of_raises he _)
      have hx := loopRun_x s
      have hkept := loopRun_updatesKept s
      rw [hloop] at hx hkept
      exact ⟨exec_dispatch_of_raises hloop, hx, hkept⟩
    case stuck =>
      have hloop : loopRun s = .ok st2 t := by
        have hlast := dispatchLoop_of_unfinished hu 0
        rw [Nat.zero_add] at hlast
        rw [loopRun, hcap]
        exact hlast.trans ((passReturns_iff st2).mp ht)
      exact exec_dispatch_of_latched hcap hst hloop
  · intro s st b1 hc c hread dc
    refine ⟨?statusZero, ?featuresOff⟩
    case statusZero =>
      rintro rfl b2 hre
      exact exec_dispatch_reports
        (dispatchLoop_of_cleared (dispatchPass_of_zero (s := setPhase .dispatch s) hc hread hre) _)
    case featuresOff =>
      intro hst hflk hals b2 b3 hwrite hre
      exact exec_dispatch_reports (dispatchLoop_of_cleared (dispatchPass_of_off (s := setPhase .dispatch s) hc hst
        (not_flickerDue hflk) (not_alsDue hals) hread hwrite hre) _)

/-! ### A status that never clears (R265) -/

section
variable {s : State} {st : Byte} {draws : Nat} {rest : List BusAnswer}

/-- What a device answers to `n` passes that read, write back and re-read the same status. -/
def stuckAnswers (st : Byte) (n : Nat) : List BusAnswer := (List.replicate n [.ok [st], .ok [], .ok [st]]).flatten

theorem stuckAnswers_succ (st : Byte) (n : Nat) (rest : List BusAnswer) :
    stuckAnswers st (n + 1) ++ rest = .ok [st] :: .ok [] :: .ok [st] :: (stuckAnswers st n ++ rest) := rfl

/-- From `s` to `t`, `n` such passes: configuration, mode and update flags as before, three transactions each, and
`rest` is what the device answers next. -/
structure StuckPasses (n : Nat) (rest : List BusAnswer) (s t : State) : Prop where
  cfg : t.cfg = s.cfg
  mode : t.dc.mode = s.dc.mode
  update : t.dc.update = s.dc.update
  log : t.bus.log.length = s.bus.log.length + 3 * n
  dev : ∃ draws, t.bus.dev = .oracle rest draws

theorem StuckPasses.trans {m n : Nat} {rest' : List BusAnswer} {t u : State} (h : StuckPasses m rest' s t)
    (k : StuckPasses n rest t u) : StuckPasses (m + n) rest s u where
  cfg := k.cfg.trans h.cfg
  mode := k.mode.trans h.mode
  update := k.update.trans h.update
  log := by rw [k.log, h.log]; omega
  dev := k.dev

section
variable {c : Config} {b : Bus} {reg v : Byte} {bytes : List Byte}

theorem readOk_of_answer (h : b.dev = .oracle (.ok [v] :: rest) draws) :
    readOk c b reg 1 [v] ⟨.oracle rest (draws + 1), .read (regAddr c reg.toNat) 1 (some [v]) :: b.log⟩ := by
  simp only [readOk, busRead, deviceRead, h]
  rfl

theorem writeOk_of_answer (h : b.dev = .oracle (.ok [] :: rest) draws) :
    writeOk c b reg bytes ⟨.oracle rest draws, .write (regAddr c reg.toNat) bytes true :: b.log⟩ := by
  simp only [writeOk, busWrite, deviceWrite, h]
  rfl

end

theorem dispatchPass_stuck (hc : configOk s.cfg = true) (hmode : s.dc.mode = 0) (hst : st ≠ 0)
    (hdev : s.bus.dev = .oracle (.ok [st] :: .ok [] :: .ok [st] :: rest) draws) :
    ∃ t, dispatchPass s = .ok st t ∧ StuckPasses 1 rest s t := by
  have hflk : ¬ flickerDue st s := not_flickerDue (.inr (by rw [hmode]; rfl))
  have hals : ¬ alsDue st s := not_alsDue (.inr (by rw [hmode]; rfl))
  exact ⟨_, dispatchPass_of_off hc hst hflk hals (readOk_of_answer hdev) (writeOk_of_answer rfl) (readOk_of_answer rfl),
    rfl, rfl, rfl, rfl, _, rfl⟩

/-- The loop makes every pass it is allowed. -/
theorem dispatchLoop_stuck (hst : st ≠ 0) (more : Nat) (hc : configOk s.cfg = true) (hmode : s.dc.mode = 0)
    (hdev : s.bus.dev = .oracle (stuckAnswers st (more + 1) ++ rest) draws) :
    ∃ t, dispatchLoop more s = .ok st t ∧ StuckPasses (more + 1) rest s t := by
  induction more generalizing s draws with
  | zero =>
    rw [stuckAnswers_succ] at hdev
    exact dispatchPass_stuck hc hmode hst hdev
  | succ more ih =>
    rw [stuckAnswers_succ] at hdev
    obtain ⟨u, hpass, hu⟩ := dispatchPass_stuck hc hmode hst hdev
    obtain ⟨draws', hdev'⟩ := hu.dev
    obtain ⟨t, hloop, ht⟩ := ih (hu.cfg ▸ hc) (hu.mode.trans hmode) hdev'
    refine ⟨t, (dispatchLoop_of_latched hpass hst more).trans hloop, ?_⟩
    rw [Nat.add_comm (more + 1) 1]
    exact hu.trans ht

end

/-- A finite cap of a well-formed configuration allows a pass (92_eei_decisions.md). -/
theorem configOk_cap {c : Config} (hc : configOk c = true) {n : Nat} (hcap : c.dispatchCap = .passes n) : 1 ≤ n := by
  simp only [configOk, sequencesOk, hcap, sequencesOk.capOk, Bool.and_eq_true, decide_eq_true_eq] at hc
  exact hc.2.1.2

/-- Settles O56: the loop uses up the cap, each pass with the same three answers. -/
theorem stuckInterruptAfterCap : Obligations.StuckInterruptAfterCap := by
  intro s st n draws rest hc hcap hmode hst hdev
  obtain ⟨more, rfl⟩ := Nat.exists_eq_add_of_le' (configOk_cap hc hcap)
  obtain ⟨t, hrun, ht⟩ := dispatchLoop_stuck (s := setPhase .dispatch s) hst more hc hmode hdev
  have hloop : loopRun s = .ok st t := by
    rw [loopRun, hcap]
    exact hrun
  have hquiet : Quiet (setPhase .dispatch s) t := by
    simpa only [hrun, left_ok] using quiet_dispatchLoop more (setPhase .dispatch s)
  exact ⟨_, exec_dispatch_of_latched hcap hst hloop, rfl, ht.update, rfl, hquiet.x,
    congrArg (List.cons _) hquiet.records, ht.log, ht.dev⟩

end Sys2Proof.Machine
end

section
/-! What HOST sees of a command that is refused: a word that is no operation (60_exceptions.md R261), and the arrivals
during an operation (R266). -/

namespace Sys2Proof.Machine

/-- A word that no row of the opcode table matches is no operation (30_encoding.md R93, R94). -/
theorem decode_eq_error_of_no_row {cw : U32} (h : ∀ row ∈ opcodeRows, cw &&& row.2 ≠ row.1) :
    ∃ e, decode cw = .error e := by
  cases hdec : decode cw with
  | error e => exact ⟨e, rfl⟩
  | ok i =>
    obtain ⟨row, hmem, hmatch⟩ := (legalWordsMatchTable cw).mp ⟨i, hdec⟩
    exact absurd hmatch (h row hmem)

theorem runCommand_of_no_row {cw : U32} (h : ∀ row ∈ opcodeRows, cw &&& row.2 ≠ row.1) (s : State) :
    runCommand cw s = .next (faulted 2 (cw.extractLsb' 16 16) s) := by
  obtain ⟨e, he⟩ := decode_eq_error_of_no_row h
  unfold runCommand
  rw [he]
  exact complete_fault (raise_run .illegalCommand _ s)

/-- Settles O6: the block answers, and the word it was given decodes to no operation. -/
theorem illegalCommandIsRefused : Obligations.IllegalCommandIsRefused := by
  intro s cw rest hin hatt hcfg hrows
  calc step s
      = ifAttached { s with inbox := rest } (runCommand cw { s with inbox := rest }) := step_of_command hin
    _ = runCommand cw { s with inbox := rest } := ifAttached_of_attached hatt hcfg
    _ = .next (faulted 2 (cw.extractLsb' 16 16) { s with inbox := rest }) := runCommand_of_no_row hrows _

/-- One refused arrival: its record and its sticky bit. -/
theorem refuseBusy_eq (s : State) :
    refuseBusy s = { s with dc := { s.dc with faults := s.dc.faults ||| 0x80 }, records := ⟨7, 0⟩ :: s.records } := rfl

/-- The sticky bit after a first arrival is what the others leave it at. -/
theorem busyBit_absorbs (faults : U16) (c : Prop) [Decidable c] :
    (if c then faults ||| 0x80 else faults ||| 0x80 ||| 0x80) = faults ||| 0x80 := by
  rw [BitVec.or_assoc, BitVec.or_self, ite_self]

/-- Settles O7, by induction on the arrivals: each puts its record on those before it. -/
theorem busyCommandsAreRefused : Obligations.BusyCommandsAreRefused := by
  intro s during
  induction during generalizing s with
  | nil => rfl
  | cons cw rest ih =>
    rw [refuseAll, ih, refuseBusy_eq]
    simp only [busyBit_absorbs, if_neg (List.cons_ne_nil cw rest), List.length_cons, List.replicate_succ',
      List.append_assoc, List.singleton_append]

end Sys2Proof.Machine
end

section
/-! The host utilities (47_host_ops.md R235 to R240): the moves between operand registers, and the buffers by their
selectors (20_memory.md R77). -/

namespace Sys2Proof.Machine

/-! ### NOP, XLI, XLIH, XMOV (R235 to R238) -/

section
variable {s : State} {d src : Byte}

theorem checkRegNumber_bad (h : ¬ d.toNat < 8) :
    checkRegNumber d s = .error ⟨.preconditionViolation, d.setWidth 16⟩ s :=
  require_bad (decide_eq_false h) _ _

/-- An operation that begins by checking a register number is refused when there is no such register. -/
theorem complete_of_badRegNumber (h : ¬ d.toNat < 8) (k : Unit → Proc Unit) :
    complete (checkRegNumber d >>= k) s = .next (faulted 3 (d.setWidth 16) s) :=
  complete_refused (bind_of_error (checkRegNumber_bad h) k)

theorem exec_xmov_of_lt (hd : d.toNat < 8) (hsrc : src.toNat < 8) :
    exec (.xmov d src) s = .next (completed (setX d.toNat (getX s src.toNat) s)) :=
  complete_ok ((bind_of_ok (checkRegNumber_ok hd) _).trans (bind_of_ok (checkRegNumber_ok hsrc) _))

theorem exec_xmov_of_badSource (hd : d.toNat < 8) (hsrc : ¬ src.toNat < 8) :
    exec (.xmov d src) s = .next (faulted 3 (src.setWidth 16) s) :=
  complete_refused ((bind_of_ok (checkRegNumber_ok hd) _).trans (bind_of_error (checkRegNumber_bad hsrc) _))

end

/-- Settles O19: each register number that exists and each that does not, the destination first. -/
theorem hostMoves : Obligations.HostMoves := by
  refine ⟨fun s => complete_ok (pure_run () s), fun s d imm => ?xli, fun s d imm => ?xlih, fun s d r => ?xmov⟩
  case xli =>
    by_cases hd : d.toNat < 8
    · rw [if_pos hd, exec_xli_of_lt imm hd, setWidth_eq_ofNat, setX]
    · rw [if_neg hd]
      exact complete_of_badRegNumber hd _
  case xlih =>
    by_cases hd : d.toNat < 8
    · rw [if_pos hd, exec_xlih_of_lt imm hd, shiftIn_eq, setX, getX]
    · rw [if_neg hd]
      exact complete_of_badRegNumber hd _
  case xmov =>
    by_cases hd : d.toNat < 8
    · rw [if_pos hd]
      by_cases hr : r.toNat < 8
      · rw [if_pos hr, exec_xmov_of_lt hd hr, setX, getX]
      · rw [if_neg hr, exec_xmov_of_badSource hd hr]
    · rw [if_neg hd]
      exact complete_of_badRegNumber hd _

/-! ### Selectors (20_memory.md R77) -/

/-- The number BRD and BWR select a buffer by. -/
def selNumber : BufferSel → Nat
  | .clear => 0
  | .wide => 1
  | .re => 2
  | .im => 3
  | .mag => 4
  | .win => 5
  | .ring => 6
  | .xfer => 7
  | .cosTab => 8
  | .sinTab => 9
  | .gainTab => 10
  | .winTab => 11

theorem bufferSel_eq_some_iff {sel : Byte} {b : BufferSel} : bufferSel sel = some b ↔ sel.toNat = selNumber b := by
  constructor
  · intro h
    unfold bufferSel at h
    split at h <;> cases h
    all_goals
      rename_i hnumber
      exact hnumber
  · intro h
    unfold bufferSel
    rw [h]
    cases b <;> rfl

theorem selNumber_le (b : BufferSel) : selNumber b ≤ 11 := by cases b <;> decide

theorem selNumber_of_writable {b : BufferSel} (h : bufferWritable b = true) :
    selNumber b ∈ [0, 1, 2, 3, 4, 7] := by
  cases b with
  | clear | wide | re | im | mag | xfer => decide
  | win | ring | cosTab | sinTab | gainTab | winTab => cases h

theorem bufferSel_of_above {sel : Byte} (h : 11 < sel.toNat) : bufferSel sel = none := by
  rw [Option.eq_none_iff_forall_ne_some]
  intro b hb
  rw [bufferSel_eq_some_iff.mp hb] at h
  exact absurd (selNumber_le b) (Nat.not_le.mpr h)

/-! ### BRD (R239) -/

section
variable {s : State} {sel : Byte} {b : BufferSel}

theorem bufferFetch_of_sel (h : bufferSel sel = some b) (idx : U16) :
    bufferFetch sel idx s =
      if idx.toNat < bufferLen s.cfg b then .ok (bufferRead s b idx.toNat) s
      else .error ⟨.preconditionViolation, idx⟩ s := by
  unfold bufferFetch
  rw [h]
  by_cases hi : idx.toNat < bufferLen s.cfg b
  · rw [if_pos hi]
    exact bind_of_ok (require_ok (decide_eq_true hi) _ _) _
  · rw [if_neg hi]
    exact bind_of_error (require_bad (decide_eq_false hi) _ _) _

/-- BRD of a buffer that exists. -/
theorem exec_brd_of_sel (h : bufferSel sel = some b) (idx : U16) :
    exec (.brd sel idx) s = .next (if idx.toNat < bufferLen s.cfg b
      then completed { s with x := s.x.set 0 (bufferRead s b idx.toNat) } else faulted 3 idx s) := by
  have hrun := bufferFetch_of_sel (s := s) h idx
  by_cases hi : idx.toNat < bufferLen s.cfg b
  · rw [if_pos hi] at hrun ⊢
    exact complete_result hrun id
  · rw [if_neg hi] at hrun ⊢
    exact complete_refused (bind_of_error hrun _)

theorem exec_brd_of_noSel (h : bufferSel sel = none) (idx : U16) :
    exec (.brd sel idx) s = .next (faulted 3 (sel.setWidth 16) s) := by
  have hrun : bufferFetch sel idx s = .error ⟨.preconditionViolation, sel.setWidth 16⟩ s := by
    unfold bufferFetch
    rw [h]
    rfl
  exact complete_refused (bind_of_error hrun _)

/-- BRD of a buffer by its number, the element `v` as the statement writes it. -/
theorem exec_brd_of_number {v : U64} {idx : U16} (h : sel.toNat = selNumber b) (hv : bufferRead s b idx.toNat = v) :
    exec (.brd sel idx) s = .next (if idx.toNat < bufferLen s.cfg b
      then completed { s with x := s.x.set 0 v } else faulted 3 idx s) := by
  rw [← hv]
  exact exec_brd_of_sel (bufferSel_eq_some_iff.mpr h) idx

end

/-- Settles O21: one buffer after the other, its element widened with zeros or with its sign. -/
theorem bufferReadReturnsElement : Obligations.BufferReadReturnsElement := by
  intro s sel idx i row
  exact ⟨fun h => exec_brd_of_number (b := .clear) h (setWidth_eq_ofNat 64 _),
    fun h => exec_brd_of_number (b := .wide) h (setWidth_eq_ofNat 64 _),
    fun h => exec_brd_of_number (b := .re) h rfl,
    fun h => exec_brd_of_number (b := .im) h rfl,
    fun h => exec_brd_of_number (b := .mag) h rfl,
    fun h => exec_brd_of_number (b := .win) h (setWidth_eq_ofNat 64 _),
    fun h => exec_brd_of_number (b := .ring) h (setWidth_eq_ofNat 64 _),
    fun h => exec_brd_of_number (b := .xfer) h (setWidth_eq_ofNat 64 _),
    fun h => exec_brd_of_number (b := .cosTab) h rfl,
    fun h => exec_brd_of_number (b := .sinTab) h rfl,
    fun h => exec_brd_of_number (b := .gainTab) h rfl,
    fun h => exec_brd_of_number (b := .winTab) h (setWidth_eq_ofNat 64 _),
    fun h => exec_brd_of_noSel (bufferSel_of_above h) idx⟩

/-! ### BWR (R240) -/

section
variable {s : State} {sel : Byte} {b : BufferSel}

/-- BWR of a writable buffer. -/
theorem exec_bwr_of_writable (h : bufferSel sel = some b) (hw : bufferWritable b = true) (idx : U16) :
    exec (.bwr sel idx) s = .next (if idx.toNat < bufferLen s.cfg b
      then completed { s with buf := bufferWrite s.buf b idx.toNat (getX s 1) } else faulted 3 idx s) := by
  have hrun (q : Proc Unit) : (require (bufferWritable b) (sel.setWidth 16) >>= fun _ => q) s = q s :=
    bind_of_ok (require_ok hw _ _) _
  by_cases hi : idx.toNat < bufferLen s.cfg b
  · rw [if_pos hi]
    refine complete_ok ((bind_look _ _ _).trans ?_)
    unfold bufferStore
    rw [h]
    exact (hrun _).trans (bind_of_ok (require_ok (decide_eq_true hi) _ _) _)
  · rw [if_neg hi]
    refine complete_refused ((bind_look _ _ _).trans ?_)
    unfold bufferStore
    rw [h]
    exact (hrun _).trans (bind_of_error (require_bad (decide_eq_false hi) _ _) _)

theorem exec_bwr_of_notWritable (h : ¬ sel.toNat ∈ [0, 1, 2, 3, 4, 7]) (idx : U16) :
    exec (.bwr sel idx) s = .next (faulted 3 (sel.setWidth 16) s) := by
  refine complete_refused ((bind_look _ _ _).trans ?_)
  unfold bufferStore
  cases hsel : bufferSel sel with
  | none => rfl
  | some b =>
    have hw : bufferWritable b = false := Bool.eq_false_iff.mpr fun hw => by
      rw [bufferSel_eq_some_iff.mp hsel] at h
      exact h (selNumber_of_writable hw)
    exact bind_of_error (require_bad hw _ _) _

/-- BWR of a writable buffer by its number. -/
theorem exec_bwr_of_number (b : BufferSel) (h : sel.toNat = selNumber b) (hw : bufferWritable b = true) (idx : U16) :
    exec (.bwr sel idx) s = .next (if idx.toNat < bufferLen s.cfg b
      then completed { s with buf := bufferWrite s.buf b idx.toNat (getX s 1) } else faulted 3 idx s) :=
  exec_bwr_of_writable (bufferSel_eq_some_iff.mpr h) hw idx

end

/-- Settles O22: one writable buffer after the other, the value cut down to the width of its elements. -/
theorem bufferWriteStoresElement : Obligations.BufferWriteStoresElement := by
  intro s sel idx i v row
  have h16 : v.setWidth 16 = BitVec.ofNat 16 v.toNat := setWidth_eq_ofNat 16 v
  have h8 : v.setWidth 8 = BitVec.ofNat 8 v.toNat := setWidth_eq_ofNat 8 v
  rw [← h16, ← h8]
  exact ⟨fun h => exec_bwr_of_number .clear h rfl idx, fun h => exec_bwr_of_number .wide h rfl idx,
    fun h => exec_bwr_of_number .re h rfl idx, fun h => exec_bwr_of_number .im h rfl idx,
    fun h => exec_bwr_of_number .mag h rfl idx, fun h => exec_bwr_of_number .xfer h rfl idx,
    fun h => exec_bwr_of_notWritable h idx⟩

end Sys2Proof.Machine
end

section
/-! What every operation leaves alone (60_exceptions.md R255, R256): inside an operation nothing touches what only its
ending writes, the configuration, the attachment or HOST's acts; the computing operations do not touch the bus either;
and no operation raises the two statuses of commands that do not run (R261, R266). Every way of building a procedure
keeps that. -/

namespace Sys2Proof.Machine

/-! ### What stays fixed inside an operation -/

/-- The part of the state that stays fixed inside an operation; for a computing one the bus, too. -/
structure Fixed where
  cfg : Config
  attached : Bool
  pc : U32
  lastErr : Byte
  faults : U16
  records : List Completion
  inbox : List HostAct
  bus : Option Bus

/-- The fixed part of a state. -/
def fixed (computing : Bool) (s : State) : Fixed where
  cfg := s.cfg
  attached := s.attached
  pc := s.pc
  lastErr := s.dc.lastErr
  faults := s.dc.faults
  records := s.records
  inbox := s.inbox
  bus := if computing then some s.bus else none

/-- The faults an operation can end with (60_exceptions.md R256). -/
def operationFaults : List FaultCode :=
  [.transportError, .preconditionViolation, .divideByZero, .arithOverflow, .stuckInterrupt, .unknownDevice]

section
variable {α β : Type} {computing : Bool}

/-- A run from `s` left the fixed part as it was, and did not end with a fault of a command that does not run. -/
def EndsSteady (computing : Bool) (s : State) : EStateM.Result Raised State α → Prop
  | .ok _ t => fixed computing t = fixed computing s
  | .error e t => fixed computing t = fixed computing s ∧ e.code ∈ operationFaults

/-- From every state the procedure leaves the fixed part as it was, however it ends. -/
def Steady (computing : Bool) (p : Proc α) : Prop := ∀ s, EndsSteady computing s (p s)

/-- The same ending from a state with the same fixed part. -/
theorem EndsSteady.of_fixed_eq {s u : State} {r : EStateM.Result Raised State α} (h : EndsSteady computing u r)
    (hu : fixed computing u = fixed computing s) : EndsSteady computing s r := by
  cases r with
  | ok a t => exact Eq.trans h hu
  | error e t =>
    obtain ⟨hfixed, hcode⟩ := h
    exact ⟨hfixed.trans hu, hcode⟩

/-! ### The ways of building a procedure -/

variable {p : Proc α} {k : α → Proc β}

theorem steady_pure (a : α) : Steady computing (pure a : Proc α) := fun _ => rfl

theorem steady_look (f : State → α) : Steady computing (look f) := fun _ => rfl

theorem steady_update {f : State → State} (h : ∀ s, fixed computing (f s) = fixed computing s) :
    Steady computing (update f) := h

theorem steady_raise {code : FaultCode} (h : code ∈ operationFaults) (info : U16) :
    Steady computing (raise code info : Proc α) := fun _ => ⟨rfl, h⟩

theorem steady_require (ok : Bool) (info : U16) : Steady computing (require ok info) := by
  cases ok
  · exact steady_raise (by decide) info
  · exact steady_pure ()

theorem steady_bind (hp : Steady computing p) (hk : ∀ a, Steady computing (k a)) : Steady computing (p >>= k) := by
  intro s
  have hs := hp s
  rw [bind_run]
  cases hps : p s with
  | ok a t =>
    rw [hps] at hs
    exact (hk a t).of_fixed_eq hs
  | error e t => rwa [hps] at hs

theorem steady_look_bind {f : State → α} (hk : ∀ a, Steady computing (k a)) : Steady computing (look f >>= k) :=
  steady_bind (steady_look f) hk

theorem steady_require_bind {ok : Bool} {info : U16} {k : Unit → Proc β} (hk : ∀ a, Steady computing (k a)) :
    Steady computing (require ok info >>= k) :=
  steady_bind (steady_require ok info) hk

/-- A procedure whose returned value is then stored. -/
theorem steady_then_update {f : α → State → State} (hp : Steady computing p)
    (hf : ∀ a s, fixed computing (f a s) = fixed computing s) : Steady computing (p >>= fun a => update (f a)) :=
  steady_bind hp fun a => steady_update (hf a)

theorem steady_ite (c : Prop) [Decidable c] {p q : Proc α} (hp : Steady computing p) (hq : Steady computing q) :
    Steady computing (if c then p else q) := by
  split
  · exact hp
  · exact hq

theorem steady_onlyIf (c : Bool) {p : Proc Unit} (hp : Steady computing p) : Steady computing (onlyIf c p) := by
  cases c
  · exact steady_pure ()
  · exact hp

/-! ### Operands (30_encoding.md R92, 20_memory.md R77) -/

theorem steady_checkRegNumber (r : Byte) : Steady computing (checkRegNumber r) := steady_require _ _

theorem steady_flagOperand (v : Byte) : Steady computing (flagOperand v) :=
  steady_require_bind fun _ => steady_pure _

theorem steady_bufferFetch (sel : Byte) (idx : U16) : Steady computing (bufferFetch sel idx) := by
  unfold bufferFetch
  split
  · exact steady_raise (by decide) _
  · exact steady_look_bind fun _ => steady_require_bind fun _ => steady_look _

theorem steady_bufferStore (sel : Byte) (idx : U16) (v : U64) : Steady computing (bufferStore sel idx v) := by
  unfold bufferStore
  split
  · exact steady_raise (by decide) _
  · exact steady_require_bind fun _ => steady_look_bind fun _ => steady_require_bind fun _ =>
      steady_update fun _ => rfl

/-! ### The parser, the kernels and the estimator (42_fifo_parser.md R154, R155, 41_dsp_kernels.md, 43_flicker.md) -/

theorem steady_checkFrameSize (n : U16) : Steady computing (checkFrameSize n) :=
  steady_look_bind fun _ => steady_require _ _

theorem steady_deinterleave : Steady computing deinterleave :=
  steady_look_bind fun _ => steady_bind (steady_checkFrameSize _) fun _ =>
    steady_look_bind fun _ => steady_require_bind fun _ => steady_update fun _ => rfl

theorem steady_parseMeta : Steady computing parseMeta :=
  steady_look_bind fun _ => steady_require_bind fun _ => steady_update fun _ => rfl

theorem steady_window : Steady computing window :=
  steady_look_bind fun _ => steady_require_bind fun _ => steady_update fun _ => rfl

theorem steady_fft (n : U16) : Steady computing (fft n) := by
  refine steady_look_bind fun _ => steady_ite _ (steady_pure ()) (steady_require_bind fun _ =>
    steady_look_bind fun _ => ?_)
  split
  · exact steady_update fun _ => rfl
  · exact steady_bind (steady_update fun _ => rfl) fun _ => steady_raise (by decide) _

theorem steady_magnitude (n : U16) : Steady computing (magnitude n) := by
  refine steady_look_bind fun _ => steady_require_bind fun _ => steady_look_bind fun _ => ?_
  split
  · exact steady_update fun _ => rfl
  · exact steady_bind (steady_update fun _ => rfl) fun _ => steady_raise (by decide) _

theorem steady_frameAverages : Steady computing frameAverages :=
  steady_look_bind fun _ => steady_bind (steady_checkFrameSize _) fun _ => steady_update fun _ => rfl

theorem steady_gainNormalise : Steady computing gainNormalise :=
  steady_look_bind fun _ => steady_look_bind fun _ => steady_look_bind fun _ =>
    steady_require_bind fun _ => steady_require_bind fun _ => steady_update fun _ => rfl

theorem steady_adaptiveThreshold : Steady computing adaptiveThreshold :=
  steady_look_bind fun _ => steady_ite _ (steady_raise (by decide) _)
    (steady_ite _ (steady_raise (by decide) _) (steady_update fun _ => rfl))

theorem steady_decideFrequency : Steady computing decideFrequency :=
  steady_look_bind fun _ => steady_require_bind fun _ => steady_ite _
    (steady_ite _ (steady_raise (by decide) _) (steady_update fun _ => rfl)) (steady_update fun _ => rfl)

theorem steady_checkConversion (n : U16) (v : U64) : Steady computing (checkConversion n v) :=
  steady_require_bind fun _ => steady_require _ _

theorem steady_analyseFrame (n : U16) : Steady computing (analyseFrame n) :=
  steady_bind steady_deinterleave fun _ => steady_bind steady_parseMeta fun _ =>
    steady_bind steady_frameAverages fun _ => steady_bind steady_gainNormalise fun _ =>
      steady_bind steady_window fun _ => steady_bind (steady_fft n) fun _ =>
        steady_bind (steady_magnitude n) fun _ => steady_bind steady_adaptiveThreshold fun _ =>
          steady_bind (steady_update fun _ => rfl) fun _ => steady_decideFrequency

theorem steady_alsCompute (clear wide : Nat) : Steady computing (alsCompute clear wide) :=
  steady_look_bind fun _ => steady_ite _ (steady_update fun _ => rfl) (steady_raise (by decide) _)

theorem steady_alsEquivalent : Steady computing alsEquivalent :=
  steady_bind (steady_update fun _ => rfl) fun _ => steady_look_bind fun _ => steady_alsCompute _ _

/-! ### Register access (40_register_access.md R110 to R118), where the bus is used -/

theorem steady_transactRead (reg : Byte) (n : Nat) : Steady false (transactRead reg n) := by
  intro s
  cases hb : busRead s.cfg s.bus (regAddr s.cfg reg.toNat) n with
  | mk answer bus =>
    cases answer with
    | some bytes => rw [transactRead_ok hb]; rfl
    | none => rw [transactRead_fail hb]; exact ⟨rfl, List.mem_cons_self⟩

theorem steady_transactWrite (reg : Byte) (bytes : List Byte) : Steady false (transactWrite reg bytes) := by
  intro s
  cases hb : busWrite s.cfg s.bus (regAddr s.cfg reg.toNat) bytes with
  | mk done bus =>
    cases done with
    | true => rw [transactWrite_ok hb]; rfl
    | false => rw [transactWrite_fail hb]; exact ⟨rfl, List.mem_cons_self⟩

theorem steady_checkReg (reg : Byte) : Steady computing (checkReg reg) := steady_look_bind fun _ => steady_require _ _

theorem steady_checkWordReg (reg : Byte) : Steady computing (checkWordReg reg) :=
  steady_look_bind fun _ => steady_require_bind fun _ => steady_require _ _

theorem steady_checkLength (n : Nat) : Steady computing (checkLength n) :=
  steady_look_bind fun _ => steady_require _ _

theorem steady_getByte (reg : Byte) : Steady false (getByte reg) :=
  steady_bind (steady_checkReg reg) fun _ => steady_bind (steady_transactRead reg 1) fun _ =>
    steady_bind (steady_update fun _ => rfl) fun _ => steady_pure _

theorem steady_setByte (reg val : Byte) : Steady false (setByte reg val) :=
  steady_bind (steady_checkReg reg) fun _ =>
    steady_bind (steady_transactWrite reg _) fun _ => steady_update fun _ => rfl

theorem steady_getWord (reg : Byte) : Steady false (getWord reg) :=
  steady_bind (steady_checkWordReg reg) fun _ => steady_bind (steady_transactRead reg 2) fun _ => steady_pure _

theorem steady_setWord (reg : Byte) (val : U16) : Steady false (setWord reg val) :=
  steady_bind (steady_checkWordReg reg) fun _ => steady_transactWrite reg _

theorem steady_getBuf (reg : Byte) (n : Nat) : Steady false (getBuf reg n) :=
  steady_bind (steady_checkReg reg) fun _ => steady_bind (steady_checkLength n) fun _ => steady_transactRead reg n

theorem steady_setBuf (reg : Byte) (bytes : List Byte) : Steady false (setBuf reg bytes) :=
  steady_bind (steady_checkReg reg) fun _ => steady_bind (steady_checkLength _) fun _ => steady_transactWrite reg bytes

theorem steady_getField (reg mask : Byte) : Steady false (getField reg mask) :=
  steady_bind (steady_getByte reg) fun _ => steady_pure _

theorem steady_setField (reg val mask : Byte) : Steady false (setField reg val mask) :=
  steady_bind (steady_checkReg reg) fun _ => steady_require_bind fun _ => steady_bind (steady_getByte reg) fun _ =>
    steady_ite _ (steady_pure _) (steady_bind (steady_setByte reg _) fun _ => steady_pure _)

theorem steady_setFields (ws : List FieldWrite) : Steady false (setFields ws) := by
  induction ws with
  | nil => exact steady_pure ()
  | cons w ws ih => exact steady_bind (steady_setField w.reg w.val w.mask) fun _ => ih

/-! ### What fetches from the device: DRAIN, FLKEST, ALSSMP, DISPATCH -/

theorem steady_fifoClear : Steady false fifoClear :=
  steady_look_bind fun _ => steady_bind (steady_setField _ _ _) fun _ => steady_pure ()

theorem steady_resetAndAbort : Steady false resetAndAbort :=
  steady_then_update steady_fifoClear fun _ _ => rfl

theorem steady_drainChunks (fuel rem : Nat) : Steady false (drainChunks fuel rem) := by
  induction fuel generalizing rem with
  | zero => exact steady_pure true
  | succ fuel ih =>
    exact steady_ite _ (steady_pure true) (steady_look_bind fun _ => steady_ite _ (steady_pure false)
      (steady_bind (steady_getBuf _ _) fun _ => steady_bind (steady_update fun _ => rfl) fun _ => ih _))

theorem steady_drain : Steady false drain :=
  have abort : Steady false (do resetAndAbort; pure false) :=
    steady_bind steady_resetAndAbort fun _ => steady_pure false
  steady_look_bind fun _ => steady_bind (steady_getByte _) fun _ => steady_bind (steady_getByte _) fun _ =>
    steady_ite _ abort (steady_bind (steady_drainChunks _ _) fun _ =>
      steady_ite _ (steady_bind (steady_update fun _ => rfl) fun _ => steady_look _) abort)

theorem steady_flickerCycle : Steady false flickerCycle :=
  steady_bind (steady_update fun _ => rfl) fun _ => steady_bind steady_drain fun _ => steady_ite _
    (steady_look_bind fun _ => steady_look_bind fun _ =>
      steady_bind (steady_onlyIf _ (steady_analyseFrame _)) fun _ => steady_bind steady_fifoClear fun _ =>
        steady_bind (steady_update fun _ => rfl) fun _ => steady_pure _)
    (steady_pure false)

theorem steady_alsSample : Steady false alsSample :=
  steady_look_bind fun _ => steady_bind (steady_getBuf _ _) fun _ => steady_bind (steady_getByte _) fun _ =>
    steady_require_bind fun _ => steady_alsCompute _ _

theorem steady_serveFlicker (st : Byte) : Steady false (serveFlicker st) :=
  steady_look_bind fun _ => steady_look_bind fun _ => steady_onlyIf _ <|
    steady_bind steady_flickerCycle fun _ => steady_onlyIf _ <|
      steady_then_update steady_alsEquivalent fun _ _ => rfl

theorem steady_serveAls (st : Byte) : Steady false (serveAls st) :=
  steady_look_bind fun _ => steady_look_bind fun _ => steady_onlyIf _ steady_alsSample

theorem steady_writeBack (st : Byte) : Steady false (writeBack st) :=
  steady_look_bind fun _ => steady_onlyIf _ (steady_setByte _ st)

theorem steady_readStatus : Steady false readStatus := steady_look_bind fun _ => steady_getByte _

theorem steady_dispatchPass : Steady false dispatchPass :=
  steady_bind steady_readStatus fun st => steady_bind (steady_serveFlicker st) fun _ =>
    steady_bind (steady_serveAls st) fun _ => steady_bind (steady_writeBack st) fun _ => steady_readStatus

theorem steady_dispatchLoop (more : Nat) : Steady false (dispatchLoop more) := by
  induction more with
  | zero => exact steady_dispatchPass
  | succ more ih => exact steady_bind steady_dispatchPass fun _ => steady_ite _ (steady_pure 0) ih

/-- The phase is not part of what stays fixed. -/
theorem steady_inDispatch (hp : Steady computing p) : Steady computing (inDispatch p) := by
  intro s
  have hs : EndsSteady computing s (p (setPhase .dispatch s)) := (hp _).of_fixed_eq rfl
  unfold inDispatch
  cases hps : p (setPhase .dispatch s) with
  | ok a t | error e t =>
    rw [hps] at hs
    exact hs

theorem steady_dispatchCapped (n : Nat) : Steady false (dispatchCapped n) :=
  steady_bind (steady_inDispatch (steady_dispatchLoop (n - 1))) fun _ =>
    steady_ite _ (steady_update fun _ => rfl) (steady_raise (by decide) _)

end

/-! ### Whole operations -/

/-- If an operation from `s` answers a next state, that state is the ending of a steady run. -/
def AnswersSteady (computing : Bool) (s : State) (o : Outcome) : Prop :=
  ∀ t, o = .next t → ∃ r, t = finish r ∧ EndsSteady computing s r

section
variable {α : Type} {computing : Bool} {s : State}

theorem answersSteady_finish {r : EStateM.Result Raised State Unit} (h : EndsSteady computing s r) :
    AnswersSteady computing s (.next (finish r)) := by
  rintro _ ⟨⟩
  exact ⟨r, rfl, h⟩

theorem answersSteady_complete {p : Proc Unit} (hp : Steady computing p) : AnswersSteady computing s (complete p s) :=
  answersSteady_finish (hp s)

/-- An operation that calls a procedure and then stores its results. -/
theorem answersSteady_result {p : Proc α} {f : α → State → State} (hp : Steady computing p)
    (hf : ∀ a u, fixed computing (f a u) = fixed computing u) :
    AnswersSteady computing s (complete (p >>= fun a => update (f a)) s) :=
  answersSteady_complete (steady_then_update hp hf)

/-- DISPATCH with either cap (46_dispatch.md R216). -/
theorem answersSteady_dispatch (s : State) : AnswersSteady false s (execDispatch s) := by
  unfold execDispatch
  split
  next n _ => exact answersSteady_complete (steady_dispatchCapped n)
  next fuel _ =>
    have hloop := steady_inDispatch (steady_dispatchLoop fuel) s
    split
    next st2 u hu =>
      rw [hu] at hloop
      have hconsumed : EndsSteady false s (update consumeUpdate u) := hloop
      split
      · exact answersSteady_finish hconsumed
      · rintro _ ⟨⟩
    next e u hu =>
      rw [hu] at hloop
      exact answersSteady_finish (r := .error e u) hloop

/-- IDENT (40_register_access.md R119): its own fault is UnknownDevice. -/
theorem answersSteady_ident (s : State) : AnswersSteady false s (execIdent s) := by
  refine answersSteady_complete (steady_look_bind fun _ => steady_bind (steady_getByte _) fun _ =>
    steady_bind (steady_getByte _) fun _ => steady_bind (steady_update fun _ => rfl) fun _ => ?_)
  split
  · exact steady_update fun _ => rfl
  · exact steady_raise (by decide) _

/-- FEATEN (46_dispatch.md R217): a re-initialisation of either feature stays within its context and its buffers. -/
theorem answersSteady_featen (feat trig : Byte) (s : State) : AnswersSteady false s (execFeaten feat trig s) := by
  refine answersSteady_complete (steady_bind (steady_flagOperand feat) fun flk =>
    steady_bind (steady_flagOperand trig) fun _ => steady_look_bind fun _ => steady_require_bind fun _ =>
      steady_bind (steady_update fun _ => ?_) fun _ => steady_look_bind fun _ =>
        steady_then_update (steady_setFields _) fun _ _ => rfl)
  cases flk <;> rfl

end

/-- The operations that make no bus transaction (41_dsp_kernels.md, 47_host_ops.md, 60_exceptions.md R256). -/
def computes : Instr → Bool
  | .nop | .xli _ _ | .xlih _ _ | .xmov _ _ | .brd _ _ | .bwr _ _ | .isqrt | .wingen | .window | .fft _ | .mag _
  | .deint | .pmeta | .favg | .gnorm | .thresh | .peak | .fdecide | .b2mhz | .mhz2b | .l2c | .c2l | .alscalc | .alseq
  | .getals | .getflk => true
  | .getb _ | .setb _ _ | .getw _ | .setw _ _ | .getbuf _ _ | .setbuf _ _ | .getf _ _ | .setf _ _ _ | .ident | .drain
  | .fifoclr | .flkest | .agcen _ | .agcsat _ | .agcpred _ | .agcwin _ | .agcmaxg _ _ | .alssmp | .dispatch
  | .featen _ _ | .featdis _ | .setthr _ => false

/-- Every operation is steady, and the computing ones leave the bus alone. -/
theorem exec_answersSteady (i : Instr) (s : State) : AnswersSteady (computes i) s (exec i s) := by
  cases i with
  | nop => exact answersSteady_complete (steady_pure ())
  | xli d imm => exact answersSteady_result (steady_checkRegNumber d) fun _ _ => rfl
  | xlih d imm =>
    exact answersSteady_complete (steady_bind (steady_checkRegNumber d) fun _ =>
      steady_then_update (steady_look _) fun _ _ => rfl)
  | xmov d src =>
    exact answersSteady_complete (steady_bind (steady_checkRegNumber d) fun _ =>
      steady_bind (steady_checkRegNumber src) fun _ => steady_then_update (steady_look _) fun _ _ => rfl)
  | brd sel idx => exact answersSteady_result (steady_bufferFetch sel idx) fun _ _ => rfl
  | bwr sel idx => exact answersSteady_complete (steady_look_bind fun v => steady_bufferStore sel idx v)
  | getb reg => exact answersSteady_result (steady_getByte reg) fun _ _ => rfl
  | setb reg val => exact answersSteady_complete (steady_setByte reg val)
  | getw reg => exact answersSteady_result (steady_getWord reg) fun _ _ => rfl
  | setw reg val => exact answersSteady_complete (steady_setWord reg val)
  | getbuf reg len => exact answersSteady_result (steady_getBuf reg _) fun _ _ => rfl
  | setbuf reg len => exact answersSteady_complete (steady_look_bind fun bytes => steady_setBuf reg bytes)
  | getf reg mask => exact answersSteady_result (steady_getField reg mask) fun _ _ => rfl
  | setf reg val mask => exact answersSteady_result (steady_setField reg val mask) fun _ _ => rfl
  | ident => exact answersSteady_ident s
  | isqrt => exact answersSteady_result (steady_look _) fun _ _ => rfl
  | wingen => exact answersSteady_complete (steady_update fun _ => rfl)
  | window => exact answersSteady_result steady_window fun _ _ => rfl
  | fft n => exact answersSteady_complete (steady_fft n)
  | mag n => exact answersSteady_complete (steady_magnitude n)
  | drain => exact answersSteady_result steady_drain fun _ _ => rfl
  | deint => exact answersSteady_complete steady_deinterleave
  | pmeta => exact answersSteady_complete steady_parseMeta
  | fifoclr => exact answersSteady_complete steady_fifoClear
  | favg => exact answersSteady_result steady_frameAverages fun _ _ => rfl
  | gnorm => exact answersSteady_result steady_gainNormalise fun _ _ => rfl
  | thresh => exact answersSteady_result steady_adaptiveThreshold fun _ _ => rfl
  | peak => exact answersSteady_result (steady_update fun _ => rfl) fun _ _ => rfl
  | fdecide => exact answersSteady_result steady_decideFrequency fun _ _ => rfl
  | b2mhz | mhz2b =>
    exact answersSteady_complete (steady_look_bind fun n => steady_look_bind fun v =>
      steady_bind (steady_checkConversion n v) fun _ => steady_then_update (steady_look _) fun _ _ => rfl)
  | flkest => exact answersSteady_result steady_flickerCycle fun _ _ => rfl
  | l2c | c2l =>
    exact answersSteady_complete (steady_look_bind fun _ => steady_require_bind fun _ => steady_update fun _ => rfl)
  | agcen on =>
    exact answersSteady_complete (steady_bind (steady_flagOperand on) fun _ => steady_look_bind fun _ =>
      steady_bind (steady_setField _ _ _) fun _ => steady_then_update (steady_setField _ _ _) fun _ _ => rfl)
  | agcsat on | agcpred on =>
    exact answersSteady_complete (steady_bind (steady_flagOperand on) fun _ => steady_look_bind fun _ =>
      steady_then_update (steady_setField _ _ _) fun _ _ => rfl)
  | agcwin size =>
    exact answersSteady_complete (steady_look_bind fun _ => steady_require_bind fun _ =>
      steady_then_update (steady_setField _ _ _) fun _ _ => rfl)
  | agcmaxg ch code =>
    exact answersSteady_complete (steady_bind (steady_flagOperand ch) fun _ => steady_require_bind fun _ =>
      steady_look_bind fun _ => steady_require_bind fun _ =>
        steady_then_update (steady_setField _ _ _) fun _ _ => rfl)
  | alssmp => exact answersSteady_result steady_alsSample fun _ _ => rfl
  | alscalc =>
    exact answersSteady_complete (steady_look_bind fun _ => steady_look_bind fun _ => steady_require_bind fun _ =>
      steady_then_update (steady_alsCompute _ _) fun _ _ => rfl)
  | alseq => exact answersSteady_result steady_alsEquivalent fun _ _ => rfl
  | dispatch => exact answersSteady_dispatch s
  | featen feat trig => exact answersSteady_featen feat trig s
  | featdis feat =>
    exact answersSteady_complete (steady_bind (steady_flagOperand feat) fun _ => steady_look_bind fun _ =>
      steady_then_update (steady_setFields _) fun _ _ => rfl)
  | setthr thr =>
    exact answersSteady_complete (steady_look_bind fun _ => steady_require_bind fun _ =>
      steady_then_update (steady_setFields _) fun _ _ => rfl)
  | getals | getflk => exact answersSteady_complete (steady_update fun _ => rfl)

/-! ### What the ending of a steady run shows -/

section
variable {computing : Bool} {s t : State}

/-- The bookkeeping of an ending with a status, from a state with the fixed part of `s`. -/
theorem endOperation_recorded (h : fixed computing t = fixed computing s) (status : Byte) (info : U16) :
    let u := endOperation status info t
    u.records = ⟨status, info⟩ :: s.records ∧ u.pc = s.pc + 1 ∧ u.dc.lastErr = status ∧
      u.dc.faults = (if status = 0 then s.dc.faults else s.dc.faults ||| (1 <<< status.toNat)) ∧
      u.cfg = s.cfg ∧ u.attached = s.attached ∧ u.inbox = s.inbox := by
  simp only [fixed, Fixed.mk.injEq] at h
  obtain ⟨hcfg, hattached, hpc, -, hfaults, hrecords, hinbox, -⟩ := h
  exact ⟨congrArg (_ :: ·) hrecords, congrArg (· + 1) hpc, rfl, congrArg (recordFault · status) hfaults, hcfg,
    hattached, hinbox⟩

theorem bus_of_fixed_eq (h : fixed true t = fixed true s) : t.bus = s.bus :=
  Option.some.inj (congrArg Fixed.bus h)

/-- The statuses of R256 but those of an illegal command and of a refused arrival. -/
theorem statusOf_mem {code : FaultCode} (h : code ∈ operationFaults) :
    statusOf code ∈ ([0, 1, 3, 4, 5, 6, 8] : List Byte) := by
  cases code with
  | illegalCommand | busy => exact absurd h (by decide)
  | _ => decide

theorem finish_bus {r : EStateM.Result Raised State Unit} (h : EndsSteady true s r) : (finish r).bus = s.bus := by
  cases r with
  | ok a t => exact bus_of_fixed_eq (t := t) h
  | error e t =>
    obtain ⟨hfixed, -⟩ := h
    exact bus_of_fixed_eq (t := t) hfixed

end

/-- Settles O11: every operation is steady up to its ending, which writes the bookkeeping. -/
theorem everyEndingIsRecorded : Obligations.EveryEndingIsRecorded := by
  intro i s t ht
  obtain ⟨r, rfl, hr⟩ := exec_answersSteady i s t ht
  cases r with
  | ok a u =>
    obtain ⟨hrecords, hpc, hlast, hfaults, hrest⟩ := endOperation_recorded hr 0 0
    exact ⟨⟨0, 0⟩, hrecords, hpc, hlast, hfaults, fun _ => rfl, List.mem_cons_self, hrest⟩
  | error e u =>
    obtain ⟨hfixed, hcode⟩ := hr
    obtain ⟨hrecords, hpc, hlast, hfaults, hrest⟩ := endOperation_recorded hfixed (statusOf e.code) e.info
    exact ⟨⟨_, e.info⟩, hrecords, hpc, hlast, hfaults, fun h0 => absurd h0 (statusOf_ne_zero _), statusOf_mem hcode,
      hrest⟩

/-- Settles O15: the operations of the statement are the computing ones. -/
theorem noBusTransaction : Obligations.NoBusTransaction := by
  intro i s t ht hi
  have hcomputes : computes i = true := by
    rcases hi with ⟨d, v, rfl | rfl | rfl | rfl⟩ | ⟨d, r, rfl⟩ | ⟨n, rfl | rfl⟩ | hmem
    case inr.inr.inr =>
      clear ht
      revert i
      decide
    all_goals rfl
  obtain ⟨r, rfl, hr⟩ := exec_answersSteady i s t ht
  rw [hcomputes] at hr
  exact finish_bus hr

end Sys2Proof.Machine
end

section
/-! Operand values no configuration allows (60_exceptions.md R262): the operation is refused by a check that stands
before its first transaction and its first change of the state. -/

namespace Sys2Proof.Machine

section
variable {α β : Type} {s : State} {p : Proc α}

/-- The procedure raises PreconditionViolation and has done nothing. -/
def Refuses (p : Proc α) (s : State) : Prop := ∃ info, p s = .error ⟨.preconditionViolation, info⟩ s

theorem refuses_of_error {info : U16} (h : p s = .error ⟨.preconditionViolation, info⟩ s) : Refuses p s := ⟨info, h⟩

theorem refuses_bind (h : Refuses p s) (k : α → Proc β) : Refuses (p >>= k) s := by
  obtain ⟨info, hrun⟩ := h
  exact ⟨info, bind_of_error hrun k⟩

/-- A part that has done nothing and is followed by one that refuses. -/
theorem refuses_bind_of_ok {a : α} {k : α → Proc β} (hp : p s = .ok a s) (hk : Refuses (k a) s) :
    Refuses (p >>= k) s := by
  obtain ⟨info, hrun⟩ := hk
  exact ⟨info, (bind_of_ok hp k).trans hrun⟩

/-- An operation that is refused changes nothing but the bookkeeping, the log of transactions included. -/
theorem complete_of_refuses {p : Proc Unit} (h : Refuses p s) : ∃ info, complete p s = .next (faulted 3 info s) := by
  obtain ⟨info, hrun⟩ := h
  exact ⟨info, complete_refused hrun⟩

/-! ### Operands -/

theorem checkRegNumber_refuses {d : Byte} (h : ¬ d.toNat < 8) : Refuses (checkRegNumber d) s :=
  refuses_of_error (checkRegNumber_bad h)

theorem flagOperand_refuses {v : Byte} (h : ¬ v.toNat ≤ 1) : Refuses (flagOperand v) s :=
  refuses_of_error (flagOperand_bad (Nat.not_le.mp h))

/-- What follows a register check is refused, or the check is. -/
theorem checkReg_bind_refuses {reg : Byte} {k : Unit → Proc β} (hk : Refuses (k ()) s) :
    Refuses (checkReg reg >>= k) s := by
  by_cases hr : reg.toNat < regMax s.cfg
  · exact refuses_bind_of_ok (checkReg_ok hr) hk
  · exact refuses_bind (refuses_of_error (checkReg_bad hr)) k

/-- What follows a flag operand is refused, or the operand is. -/
theorem flagOperand_bind_refuses {v : Byte} {k : Bool → Proc β} (hk : v.toNat ≤ 1 → ∀ b, Refuses (k b) s) :
    Refuses (flagOperand v >>= k) s := by
  by_cases hv : v.toNat ≤ 1
  · exact refuses_bind_of_ok (flagOperand_ok hv) (hk hv _)
  · exact refuses_bind (flagOperand_refuses hv) k

/-- No buffer transfer is of length 0 (40_register_access.md R115, R116). -/
theorem checkLength_zero_refuses : Refuses (checkLength 0) s := refuses_of_error (checkLength_bad (.inl rfl))

theorem getBuf_zero_refuses (reg : Byte) : Refuses (getBuf reg 0) s :=
  checkReg_bind_refuses (refuses_bind checkLength_zero_refuses _)

theorem setBuf_nil_refuses (reg : Byte) : Refuses (setBuf reg []) s :=
  checkReg_bind_refuses (refuses_bind checkLength_zero_refuses _)

theorem setField_refuses {reg val mask : Byte} (h : val &&& ~~~mask ≠ 0) : Refuses (setField reg val mask) s :=
  refuses_of_error (setField_bad (.inr h))

/-- 0 is no power of two and not above `FFT_MAX` (41_dsp_kernels.md R135). -/
theorem fft_zero_refuses : Refuses (fft 0) s := refuses_of_error rfl

theorem magnitude_zero_refuses : Refuses (magnitude 0) s := refuses_of_error (magnitude_refused (.inl rfl))

end

/-- Settles O14: for each operation that has such operands, the check that refuses them. -/
theorem illegalOperandsChangeNothing : Obligations.IllegalOperandsChangeNothing := by
  intro i s hwf
  cases i with
  | xli d imm | xlih d imm =>
    exact complete_of_refuses (refuses_bind (checkRegNumber_refuses (of_decide_eq_false hwf)) _)
  | xmov d src =>
    by_cases hd : d.toNat < 8
    · have hsrc : ¬ src.toNat < 8 := by simpa [Instr.wf, hd] using hwf
      exact ⟨_, exec_xmov_of_badSource hd hsrc⟩
    · exact complete_of_refuses (refuses_bind (checkRegNumber_refuses hd) _)
  | brd sel idx =>
    have hsel : 11 < sel.toNat := Nat.not_le.mp (of_decide_eq_false hwf)
    exact ⟨_, exec_brd_of_noSel (bufferSel_of_above hsel) idx⟩
  | bwr sel idx =>
    have hsel : ¬ sel.toNat ∈ [0, 1, 2, 3, 4, 7] := by
      simp only [Instr.wf, Bool.or_eq_false_iff, decide_eq_false_iff_not, beq_eq_false_iff_ne] at hwf
      simp only [List.mem_cons, List.not_mem_nil, or_false]
      omega
    exact ⟨_, exec_bwr_of_notWritable hsel idx⟩
  | getbuf reg len =>
    obtain rfl : len = 0 := bne_eq_false_iff_eq.mp hwf
    exact complete_of_refuses (refuses_bind (getBuf_zero_refuses reg) _)
  | setbuf reg len =>
    obtain rfl : len = 0 := bne_eq_false_iff_eq.mp hwf
    exact complete_of_refuses (setBuf_nil_refuses reg)
  | setf reg val mask =>
    exact complete_of_refuses (refuses_bind (setField_refuses (beq_eq_false_iff_ne.mp hwf)) _)
  | fft n =>
    obtain rfl : n = 0 := bne_eq_false_iff_eq.mp hwf
    exact complete_of_refuses fft_zero_refuses
  | mag n =>
    obtain rfl : n = 0 := bne_eq_false_iff_eq.mp hwf
    exact complete_of_refuses magnitude_zero_refuses
  | agcen v | agcsat v | agcpred v | featdis v =>
    exact complete_of_refuses (refuses_bind (flagOperand_refuses (of_decide_eq_false hwf)) _)
  | agcmaxg ch code =>
    refine complete_of_refuses (flagOperand_bind_refuses fun hch wide => ?_)
    have hcode : ¬ code.toNat ≤ maxGainCode := by simpa [Instr.wf, hch, maxGainCode] using hwf
    exact refuses_bind (refuses_of_error (require_bad (decide_eq_false hcode) _ _)) _
  | featen feat trig =>
    refine complete_of_refuses (flagOperand_bind_refuses fun hfeat flk => ?_)
    have htrig : ¬ trig.toNat ≤ 1 := by simpa [Instr.wf, hfeat] using hwf
    exact refuses_bind (flagOperand_refuses htrig) _
  | setthr thr =>
    obtain rfl : thr = 0 := bne_eq_false_iff_eq.mp hwf
    exact ⟨_, exec_setthr_of_bad (.inl rfl)⟩
  | nop | getb | setb | getw | setw | getf | ident | isqrt | wingen | window | drain | deint | pmeta | fifoclr | favg
  | gnorm | thresh | peak | fdecide | b2mhz | mhz2b | flkest | l2c | c2l | agcwin | alssmp | alscalc | alseq | dispatch
  | getals | getflk => cases hwf

end Sys2Proof.Machine
end

section
/-! How operations end (70_reset_and_hazards.md R303, 46_dispatch.md R216): every operation but DISPATCH is one
procedure and its ending, and so is DISPATCH with a finite cap. -/

namespace Sys2Proof.Machine

variable {s t : State}

/-- With a finite cap every operation answers a next state; the cap matters to DISPATCH alone. -/
theorem exec_next_of_capFinite (hcap : capFinite s) (i : Instr) : ∃ t, exec i s = .next t := by
  cases i with
  | dispatch =>
    obtain ⟨n, hn⟩ := hcap
    show ∃ t, execDispatch s = .next t
    unfold execDispatch
    rw [hn]
    exact ⟨_, rfl⟩
  | _ => exact ⟨_, rfl⟩

/-- The loop of which every pass re-reads a status that is not 0 ends with the last one read. -/
theorem dispatchLoop_of_allUnfinished {fuel : Nat} (h : unfinishedPasses (fuel + 1) s t) :
    ∃ st2, st2 ≠ 0 ∧ dispatchLoop fuel s = .ok st2 t := by
  induction fuel generalizing s with
  | zero =>
    obtain ⟨st2, u, hpass, hst, rfl⟩ := h
    exact ⟨st2, hst, (passReturns_iff st2).mp hpass⟩
  | succ fuel ih =>
    obtain ⟨st, u, hpass, hst, hrest⟩ := h
    obtain ⟨st2, hst2, hloop⟩ := ih hrest
    exact ⟨st2, hst2, (dispatchLoop_of_latched ((passReturns_iff st).mp hpass) hst fuel).trans hloop⟩

/-- The model gives an infinite cap up when its passes are used up (log 7). -/
theorem exec_dispatch_of_outOfFuel {fuel : Nat} (hcap : s.cfg.dispatchCap = .unbounded fuel)
    (h : unfinishedPasses (fuel + 1) (setPhase .dispatch s) t) : exec .dispatch s = .fault .dispatchDoesNotEnd := by
  obtain ⟨st2, hst2, hloop⟩ := dispatchLoop_of_allUnfinished h
  show execDispatch s = _
  simp only [execDispatch, hcap, inDispatch_ok hloop, if_neg hst2]

/-- Settles O16: a procedure always ends; the loop of an infinite cap that uses up its fuel answers the fault. -/
theorem operationsEnd : Obligations.OperationsEnd :=
  ⟨fun i _ hcap => exec_next_of_capFinite hcap i, fun _ _ hcap _ h => exec_dispatch_of_outOfFuel hcap h⟩

end Sys2Proof.Machine
end
